-- ==== Sys2Proof/Word.lean ====
section
/-! DEFINITION. The word types of the core (00_scope.md R8): bytes, 32-bit bus words, 64-bit registers, and
offsets in the window of 0x4000 = 2^14 bytes (20_memory.md R61). -/

namespace Sys2Proof

/-- A byte (R8). -/
abbrev Byte := BitVec 8

/-- A bus data word, and every register word (R7 `BUS_W`). -/
abbrev Word := BitVec 32

/-- A 64-bit register: `RSA_W` of R7, and MLEN of 10_state.md R50. -/
abbrev DWord := BitVec 64

/-- A window offset, `0 ≤ off < 0x4000` (R61). -/
abbrev Offset := BitVec 14

end Sys2Proof
end

