-- ==== Sys2Proof/Syntax.lean ====
section
/-! DEFINITION. The command set, whole: one constructor per row of spec/opcode_table.json
(30_encoding.md R95). Every operand is a fixed register except the round number of AES_ADDRK (R93). -/

namespace Sys2Proof

/-- A command (R95). -/
inductive Instr where
  /-- NOP (R111). -/
  | nop
  /-- CLRST (R112). -/
  | clrst
  /-- GF_MUL (R113). -/
  | gfMul
  /-- CAES_ENC (R129). -/
  | caesEnc
  /-- CAES_DEC (R130). -/
  | caesDec
  /-- VIG_KEY (R134). -/
  | vigKey
  /-- VIG_ENC (R135). -/
  | vigEnc
  /-- VIG_DEC (R136). -/
  | vigDec
  /-- B64_ENC (R148). -/
  | b64Enc
  /-- B64_DEC (R151). -/
  | b64Dec
  /-- MD5_INIT (R166). -/
  | md5Init
  /-- MD5_UPDATE (R167). -/
  | md5Update
  /-- MD5_FINAL (R168). -/
  | md5Final
  /-- AES_KEYEXP (R200). -/
  | aesKeyexp
  /-- AES_LOAD (R202). -/
  | aesLoad
  /-- AES_STORE (R203). -/
  | aesStore
  /-- AES_ADDRK r (R204): the round number `r` is the ARG byte (R93), an index and not a bit pattern. -/
  | aesAddrk (r : Nat)
  /-- AES_SUBBYTES (R205). -/
  | aesSubbytes
  /-- AES_INVSUBBYTES (R206). -/
  | aesInvsubbytes
  /-- AES_SHIFTROWS (R207). -/
  | aesShiftrows
  /-- AES_INVSHIFTROWS (R208). -/
  | aesInvshiftrows
  /-- AES_MIXCOLUMNS (R209). -/
  | aesMixcolumns
  /-- AES_INVMIXCOLUMNS (R210). -/
  | aesInvmixcolumns
  /-- AES_ENC (R215). -/
  | aesEnc
  /-- AES_DEC (R216). -/
  | aesDec
  /-- RSA_KEYGEN (R235). -/
  | rsaKeygen
  /-- RSA_ENC (R236). -/
  | rsaEnc
  /-- RSA_DEC (R237). -/
  | rsaDec
  /-- RSA_MODEXP (R238). -/
  | rsaModexp
  /-- RSA_MODINV (R239). -/
  | rsaModinv
deriving DecidableEq, Repr

end Sys2Proof
end

