-- ==== Sys2Proof/WellFormed.lean ====
section
/-! DEFINITION. Which command terms have an encoding (30_encoding.md R93, R98). -/

namespace Sys2Proof

/-- The round number an AES_ADDRK word can carry: `0 ≤ r ≤ 255` (R98). -/
def roundFitsArg (r : Nat) : Bool := decide (r ≤ 255)

/-- A term of `Instr` that some command word encodes. The one operand of the command set is AES_ADDRK's round
number (R93); no other command has anything to check. -/
def Instr.wellFormed : Instr → Bool
  | .nop => true
  | .clrst => true
  | .gfMul => true
  | .caesEnc => true
  | .caesDec => true
  | .vigKey => true
  | .vigEnc => true
  | .vigDec => true
  | .b64Enc => true
  | .b64Dec => true
  | .md5Init => true
  | .md5Update => true
  | .md5Final => true
  | .aesKeyexp => true
  | .aesLoad => true
  | .aesStore => true
  | .aesAddrk r => roundFitsArg r
  | .aesSubbytes => true
  | .aesInvsubbytes => true
  | .aesShiftrows => true
  | .aesInvshiftrows => true
  | .aesMixcolumns => true
  | .aesInvmixcolumns => true
  | .aesEnc => true
  | .aesDec => true
  | .rsaKeygen => true
  | .rsaEnc => true
  | .rsaDec => true
  | .rsaModexp => true
  | .rsaModinv => true

end Sys2Proof
end

