-- ==== Sys2Proof/Decode.lean ====
section
/-! DEFINITION. The decoder, total on every 32-bit word (30_encoding.md R91 to R97), and after it the encoder
(R98), written from the same table. -/

namespace Sys2Proof

/-- Why a command word is illegal (R96). All three give the same outcome, IllegalCommand (R97). -/
inductive Illegal where
  /-- RSV, `w[31:16]`, is not 0 (R94). -/
  | rsvNonzero
  /-- OP, `w[7:0]`, is none of the 30 values of R95. -/
  | opReserved
  /-- ARG, `w[15:8]`, is not 0 and OP is not AES_ADDRK's (R93). -/
  | argNonzero
deriving DecidableEq, Repr

/-- The OP field, `w[7:0]` (R91). -/
def opField (w : Word) : Byte := w.extractLsb' 0 8

/-- The ARG field, `w[15:8]` (R91). -/
def argField (w : Word) : Byte := w.extractLsb' 8 8

/-- The RSV field, `w[31:16]` (R91). -/
def rsvField (w : Word) : BitVec 16 := w.extractLsb' 16 16

/-- The opcode map of R95: the command of an OP value, its ARG being `arg`. -/
def opMap (op : Byte) (arg : Nat) : Option Instr :=
  match op.toNat with
  | 0x00 => some .nop
  | 0x01 => some .clrst
  | 0x10 => some .gfMul
  | 0x20 => some .caesEnc
  | 0x21 => some .caesDec
  | 0x22 => some .vigKey
  | 0x23 => some .vigEnc
  | 0x24 => some .vigDec
  | 0x30 => some .b64Enc
  | 0x31 => some .b64Dec
  | 0x40 => some .md5Init
  | 0x41 => some .md5Update
  | 0x42 => some .md5Final
  | 0x50 => some .aesKeyexp
  | 0x51 => some .aesLoad
  | 0x52 => some .aesStore
  | 0x53 => some (.aesAddrk arg)
  | 0x54 => some .aesSubbytes
  | 0x55 => some .aesInvsubbytes
  | 0x56 => some .aesShiftrows
  | 0x57 => some .aesInvshiftrows
  | 0x58 => some .aesMixcolumns
  | 0x59 => some .aesInvmixcolumns
  | 0x5A => some .aesEnc
  | 0x5B => some .aesDec
  | 0x60 => some .rsaKeygen
  | 0x61 => some .rsaEnc
  | 0x62 => some .rsaDec
  | 0x63 => some .rsaModexp
  | 0x64 => some .rsaModinv
  | _ => none

/-- The OP value of AES_ADDRK, the one command that takes an ARG (R93). -/
def opAddrk : Byte := 0x53

/-- The decode function of R97. -/
def decode (w : Word) : Except Illegal Instr :=
  if rsvField w ≠ 0 then .error .rsvNonzero
  else
    match opMap (opField w) (argField w).toNat with
    | none => .error .opReserved
    | some i => if argField w ≠ 0 ∧ opField w ≠ opAddrk then .error .argNonzero else .ok i

/-- The OP value of a command (R95). -/
def Instr.op : Instr → Byte
  | .nop => 0x00
  | .clrst => 0x01
  | .gfMul => 0x10
  | .caesEnc => 0x20
  | .caesDec => 0x21
  | .vigKey => 0x22
  | .vigEnc => 0x23
  | .vigDec => 0x24
  | .b64Enc => 0x30
  | .b64Dec => 0x31
  | .md5Init => 0x40
  | .md5Update => 0x41
  | .md5Final => 0x42
  | .aesKeyexp => 0x50
  | .aesLoad => 0x51
  | .aesStore => 0x52
  | .aesAddrk _ => 0x53
  | .aesSubbytes => 0x54
  | .aesInvsubbytes => 0x55
  | .aesShiftrows => 0x56
  | .aesInvshiftrows => 0x57
  | .aesMixcolumns => 0x58
  | .aesInvmixcolumns => 0x59
  | .aesEnc => 0x5A
  | .aesDec => 0x5B
  | .rsaKeygen => 0x60
  | .rsaEnc => 0x61
  | .rsaDec => 0x62
  | .rsaModexp => 0x63
  | .rsaModinv => 0x64

/-- The ARG value of a command: the round number of AES_ADDRK, 0 for every other (R93). -/
def Instr.arg : Instr → Nat
  | .nop => 0
  | .clrst => 0
  | .gfMul => 0
  | .caesEnc => 0
  | .caesDec => 0
  | .vigKey => 0
  | .vigEnc => 0
  | .vigDec => 0
  | .b64Enc => 0
  | .b64Dec => 0
  | .md5Init => 0
  | .md5Update => 0
  | .md5Final => 0
  | .aesKeyexp => 0
  | .aesLoad => 0
  | .aesStore => 0
  | .aesAddrk r => r
  | .aesSubbytes => 0
  | .aesInvsubbytes => 0
  | .aesShiftrows => 0
  | .aesInvshiftrows => 0
  | .aesMixcolumns => 0
  | .aesInvmixcolumns => 0
  | .aesEnc => 0
  | .aesDec => 0
  | .rsaKeygen => 0
  | .rsaEnc => 0
  | .rsaDec => 0
  | .rsaModexp => 0
  | .rsaModinv => 0

/-- The command word of a command (R98): `zext_32((arg << 8) or OP)`. -/
def encode (i : Instr) : Word :=
  (BitVec.ofNat 32 i.arg <<< 8) ||| i.op.setWidth 32

/-- The command that the decoder reads from an opcode-table word. A command is one 32-bit word (R92), so the
bits of the table are the bits of the command word, and bits above `nbits` are 0. -/
def decodeTableWord (nbits w : Nat) : Option Instr :=
  match decode (BitVec.ofNat 32 (w % 2 ^ nbits)) with
  | .ok i => some i
  | .error _ => none

end Sys2Proof
end

