-- ==== Sys2Proof/Config.lean ====
section
/-! DEFINITION. What an implementation fixes (00_scope.md R7), and the free values of
93_implementation_defined.md Part 1. A free value is an opaque constant with no body: no proof can see what it is.
-/

namespace Sys2Proof.Config

/-- R7 `BUS_W`: the width in bits of a bus data word. -/
def busW : Nat := 32

/-- R7 `WIN_BYTES`: the size in bytes of the window. -/
def winBytes : Nat := 0x4000

/-- R7 `BUF_BYTES`: the size in bytes of IBUF and of OBUF each. -/
def bufBytes : Nat := 4096

/-- R7 `B64E_MAX`: the largest INLEN that B64_ENC accepts. -/
def b64eMax : Nat := 3072

/-- R7 `VKEY_BYTES`: the size in bytes of the Vigenère keyword buffer. -/
def vkeyBytes : Nat := 32

/-- R7 `AES_KEY_BYTES`: the size in bytes of the AES key register. -/
def aesKeyBytes : Nat := 32

/-- R7 `RK_BYTES`: the size in bytes of the round-key memory. -/
def rkBytes : Nat := 240

/-- R7 `PQ_W`: the width in bits of P and Q. -/
def pqW : Nat := 32

/-- R7 `RSA_W`: the width in bits of N, PHI, D, X, Y, M and R. -/
def rsaW : Nat := 64

/-- R7 `E_RSA`: the fixed public exponent (10_state.md R41). -/
def eRsa : Nat := 17

/-- Which `WIN_BYTES`-sized slot of the bus holds the window: open (U10, log 4). -/
opaque windowIndex : Nat

/-- R7 `BASE`: the bus address of window offset 0, some multiple of `WIN_BYTES` (U10, log 4). -/
def base : Nat := windowIndex * winBytes

/-- R7 `BUS_ERR_RESP`: whether a bad access gets an error response on the bus: open (U12, log 5). -/
opaque busErrResp : Bool

/-- FREE VALUE. The word that the `n`-th draw gives to a read while BUSY = 1 (U4, log 8). -/
opaque busyRead : Nat → Word

/-- FREE VALUE. The number behind the `n`-th draw for RSA_ENC or RSA_DEC with `X ≥ N`; it is reduced
modulo N, which is the only constraint (U1, log 9). -/
opaque rsaDraw : Nat → Nat

/-- FREE VALUE. What the RAM byte at window offset `off` holds after a reset that is the `n`-th draw
(U3, log 7). -/
opaque powerOnByte (n off : Nat) : Byte

/-- FREE VALUE. The data a read that overlaps reset returns (U5, log 12). -/
opaque overlapRead : Nat → Word

/-- FREE VALUE. Whether the response to an access that overlaps reset is an error response (U5, log 12). -/
opaque overlapError : Nat → Bool

end Sys2Proof.Config
end

