-- ==== Sys2Proof/Machine/State.lean ====
section
/-! DEFINITION. The state of the core as plain data (10_state.md), the events that drive it, the ways a step
can stop, and the state after reset (10_state.md R56). -/

namespace Sys2Proof.Machine

/-- The error causes of 60_exceptions.md R256. -/
inductive ErrorCode where
  /-- 0x01: an illegal or reserved command word (R257). -/
  | illegalCommand
  /-- 0x02: KEYLEN is not 16, 24 or 32. -/
  | invalidKeyLength
  /-- 0x03: no keyword is loaded, or no letter is left after normalisation. -/
  | missingKeyword
  /-- 0x04: a Base64 input byte outside the alphabet. -/
  | invalidAlphabetCharacter
  /-- 0x05: reserved for the host; no command raises it (R263). -/
  | malformedCiphertext
  /-- 0x06: a length over the command's limit. -/
  | lengthError
  /-- 0x07: AES_ADDRK while KVALID = 0. -/
  | keyNotExpanded
  /-- 0x08: AES_ADDRK with a round above NR. -/
  | roundOutOfRange
  /-- 0x09: an RSA command with modulus 0. -/
  | modulusZero
  /-- 0x0A: no modular inverse exists. -/
  | noInverse
  /-- 0x0B: RSA_KEYGEN with P or Q below 2. -/
  | rsaDomain
deriving DecidableEq, Repr

/-- What a host access does: `MemRead` or `MemWrite` of 20_memory.md R61. -/
inductive BusOp where
  | read
  | write (v : Word)
deriving DecidableEq, Repr

/-- One host access: its width in bytes, the window offset it addresses, and what it does. Only
`size = 4` at an offset that is a multiple of 4 is accepted (R66); `v` matters only then. -/
structure Access where
  size : Nat
  off  : Offset
  op   : BusOp
deriving DecidableEq, Repr

/-- What the core puts on the bus for an access. `error` is the bus's error response (60_exceptions.md R266). -/
inductive BusResponse where
  /-- The response to a read. -/
  | data (v : Word) (error : Bool)
  /-- The response to a write. -/
  | done (error : Bool)
deriving DecidableEq, Repr

/-- One event still to come. The list of them is the stream of 00_scope.md R12 in arrival order, and the place of
an `engine` among the accesses is LATENCY (70_reset_and_hazards.md R284, log 2). -/
inductive Input where
  /-- The host's next access. -/
  | access (a : Access)
  /-- The moment the engine takes its step, if it holds a command. -/
  | engine
  /-- The reset input, with the access that overlaps it, if one does (R281, R292). -/
  | reset (overlap : Option Access)
deriving DecidableEq, Repr

/-- The state of the core. Every register of 10_state.md is one field, but for E, which is the constant 17 (R41),
CMD, which holds no value (R24), and the byte arrays VKEY, KEY, STATE, RK, IBUF and OBUF, which are cells of `mem`
under their window offsets (log 19). The last three fields are the model's own. -/
structure State where
  /-- STATUS.BUSY (R25, R26). -/
  busy : Bool
  /-- STATUS.ERR (R25, R28). -/
  err : Bool
  /-- STATUS.OVR (R25, R29). -/
  ovr : Bool
  /-- STATUS.KVALID (R25, R30). -/
  kvalid : Bool
  /-- STATUS.VKVALID (R25, R31). -/
  vkvalid : Bool
  /-- STATUS.ERRCODE (R25, R28). -/
  errCode : Byte
  /-- PENDING, the command latch (R53). -/
  pending : Word
  /-- INLEN (R32). -/
  inlen : BitVec 13
  /-- OUTLEN (R33). -/
  outlen : BitVec 13
  /-- GF_A (R34). -/
  gfA : Byte
  /-- GF_B (R34). -/
  gfB : Byte
  /-- GF_P (R35). -/
  gfP : Byte
  /-- SHIFT (R36). -/
  shift : Byte
  /-- VKLEN (R37). -/
  vklen : BitVec 6
  /-- VKIDX (R38). -/
  vkidx : BitVec 5
  /-- H0 (R49). -/
  h0 : Word
  /-- H1 (R49). -/
  h1 : Word
  /-- H2 (R49). -/
  h2 : Word
  /-- H3 (R49). -/
  h3 : Word
  /-- MLEN (R50). -/
  mlen : DWord
  /-- P (R40). -/
  p : Word
  /-- Q (R40). -/
  q : Word
  /-- N (R42). -/
  n : DWord
  /-- PHI (R42). -/
  phi : DWord
  /-- D (R42). -/
  d : DWord
  /-- X (R43). -/
  x : DWord
  /-- Y (R43). -/
  y : DWord
  /-- M (R43). -/
  m : DWord
  /-- R (R44). -/
  r : DWord
  /-- KEYLEN (R45). -/
  keylen : BitVec 6
  /-- NR (R47). -/
  nr : BitVec 4
  /-- VKEY (R39), KEY (R45), STATE (R46), RK (R48), IBUF (R51) and OBUF (R52): (window offset, byte), in the
  canonical form of `Memory.wf`. -/
  mem : List Host.Cell
  /-- MODEL: the events still to come (log 1, log 2). -/
  inputs : List Input
  /-- MODEL: the last response on the bus (log 5). -/
  resp : Option BusResponse
  /-- MODEL: how many free values have been drawn (log 10). -/
  draws : Nat
deriving DecidableEq, Repr

/-- Why the machine stops. It never does: a command that fails completes with STATUS.ERR = 1 (60_exceptions.md
R258, R261), and a bad access is a bus error, which is a response and not a stop (R266). No constructor, so nothing
raises one: safe, since no behaviour is cut off (log 17). -/
inductive Fault where
deriving DecidableEq, Repr

/-- Why a step has no meaning. -/
inductive Refusal where
  /-- Raised by an arm of `exec` whose command has no meaning yet; no arm is left that raises it. Safe. -/
  | notModelled (mnemonic : String)
deriving DecidableEq, Repr

/-- The state after reset: 10_state.md R56. RK, IBUF and OBUF are unspecified there; with nothing listed they read
as what an unlisted cell reads as (log 6). PENDING is "none" there; it holds 0 (log 11). -/
def State.reset : State where
  busy := false
  err := false
  ovr := false
  kvalid := false
  vkvalid := false
  errCode := 0x00
  pending := 0
  inlen := 0
  outlen := 0
  gfA := 0x00
  gfB := 0x00
  gfP := 0x00
  shift := 3
  vklen := 0
  vkidx := 0
  h0 := 0x67452301
  h1 := 0xEFCDAB89
  h2 := 0x98BADCFE
  h3 := 0x10325476
  mlen := 0
  p := 61
  q := 53
  n := 0
  phi := 0
  d := 0
  x := 0
  y := 0
  m := 0
  r := 0
  keylen := 0
  nr := 0
  mem := []
  inputs := []
  resp := none
  draws := 0

end Sys2Proof.Machine
end

