-- ==== Sys2Proof/Machine/Flags.lean ====
section
/-! DEFINITION. Every flag of the core: the STATUS word and its fields (10_state.md R25 to R31), and the numbers
of the error codes (60_exceptions.md R256). The core has no condition codes (10_state.md R54). -/

namespace Sys2Proof.Machine

/-- The number of an error code (R256). -/
def ErrorCode.code : ErrorCode → Byte
  | .illegalCommand => 0x01
  | .invalidKeyLength => 0x02
  | .missingKeyword => 0x03
  | .invalidAlphabetCharacter => 0x04
  | .malformedCiphertext => 0x05
  | .lengthError => 0x06
  | .keyNotExpanded => 0x07
  | .roundOutOfRange => 0x08
  | .modulusZero => 0x09
  | .noInverse => 0x0A
  | .rsaDomain => 0x0B

/-- The STATUS word (R25): ERRCODE in bits 15:8, then from bit 4 down VKVALID, KVALID, OVR, ERR, BUSY; the reserved
bits 31:16 and 7:5 read 0 (U6). -/
def statusWord (s : State) : Word :=
  (0#16 ++ s.errCode ++ 0#3 ++ BitVec.ofBool s.vkvalid ++ BitVec.ofBool s.kvalid ++ BitVec.ofBool s.ovr
    ++ BitVec.ofBool s.err ++ BitVec.ofBool s.busy : BitVec (16 + 8 + 3 + 1 + 1 + 1 + 1 + 1))

/-- A host write to KEY or KEYLEN clears KVALID, whatever it stores (R30). -/
def clearKvalid (s : State) : State := { s with kvalid := false }

/-- A host write to VKEY or VKLEN clears VKVALID, whatever it stores (R31). -/
def clearVkvalid (s : State) : State := { s with vkvalid := false }

/-- A host write that arrives while BUSY = 1 sets OVR (R29). -/
def setOvr (s : State) : State := { s with ovr := true }

/-- CLRST clears OVR (40_control_gf.md R112). -/
def clearOvr (s : State) : State := { s with ovr := false }

end Sys2Proof.Machine
end

