-- ==== Sys2Proof/Machine/Ops.lean ====
section
/-! DEFINITION. The named operations of the core over memory, registers and the command handshake: the byte
memory and its canonical form, the register map (20_memory.md R62), reads and writes of one register
(10_state.md R23), and the three things that happen to a command: acceptance (R27), completion and failure
(60_exceptions.md R258). -/

namespace Sys2Proof.Machine

/-! ## Byte order (20_memory.md R63, R64) -/

/-- `le32` of 00_scope.md R10: `b0` in bits 7:0, `b3` in bits 31:24. -/
def le32 (b0 b1 b2 b3 : Byte) : Word := (b3 ++ b2 ++ b1 ++ b0 : BitVec (8 + 8 + 8 + 8))

/-- The four bytes of a word, bits 7:0 first (R63). -/
def wordBytes (v : Word) : List Byte :=
  [v.extractLsb' 0 8, v.extractLsb' 8 8, v.extractLsb' 16 8, v.extractLsb' 24 8]

/-- The word at the lower offset of a 64-bit register, bits 31:0 (R64). -/
def loWord (v : DWord) : Word := v.extractLsb' 0 32

/-- The word at offset + 4 of a 64-bit register, bits 63:32 (R64). -/
def hiWord (v : DWord) : Word := v.extractLsb' 32 32

/-- A 64-bit register with its lower word replaced (R64). -/
def setLoWord (v : DWord) (w : Word) : DWord := hiWord v ++ w

/-- A 64-bit register with its upper word replaced (R64). -/
def setHiWord (v : DWord) (w : Word) : DWord := w ++ loWord v

/-! ## The byte memory

The byte arrays of the window in one list of (window offset, byte) cells. -/

/-- What a cell that is not listed reads as. It is the reset value of VKEY, KEY and STATE (10_state.md R56); for
RK, IBUF and OBUF, whose reset contents R56 leaves unspecified, DESIGN CHOICE, unsafe (log 6). -/
def unlistedByte : Byte := 0x00

/-- The byte at an offset. -/
def readByte (m : List Host.Cell) (a : Nat) : Byte :=
  match m.find? (fun c => c.1 == a) with
  | some c => c.2
  | none => unlistedByte

/-- The `n` bytes from offset `a` upward. -/
def readBytes (m : List Host.Cell) (a n : Nat) : List Byte :=
  (List.range n).map fun i => readByte m (a + i)

/-- The cells that hold a byte string from offset `a` upward; a byte that an unlisted cell reads as gets none. -/
def cellsFrom (a : Nat) : List Byte → List Host.Cell
  | [] => []
  | b :: bs => if b = unlistedByte then cellsFrom (a + 1) bs else (a, b) :: cellsFrom (a + 1) bs

/-- Memory with a byte string stored from offset `a` upward. -/
def writeBytes (m : List Host.Cell) (a : Nat) (bs : List Byte) : List Host.Cell :=
  m.filter (fun c => decide (c.1 < a)) ++ cellsFrom a bs ++
    m.filter (fun c => decide (a + bs.length ≤ c.1))

/-- The byte arrays of the window (20_memory.md R63). -/
inductive ByteArr where
  | vkey
  | key
  | state
  | rk
  | ibuf
  | obuf
deriving DecidableEq, Repr

/-- The window offset of an array's byte 0 (R62). -/
def ByteArr.base : ByteArr → Nat
  | .vkey => 0x0060
  | .key => 0x0100
  | .state => 0x0130
  | .rk => 0x0400
  | .ibuf => 0x1000
  | .obuf => 0x2000

/-- The number of bytes of an array (R62, 00_scope.md R7). -/
def ByteArr.size : ByteArr → Nat
  | .vkey => Config.vkeyBytes
  | .key => Config.aesKeyBytes
  | .state => 16
  | .rk => Config.rkBytes
  | .ibuf => Config.bufBytes
  | .obuf => Config.bufBytes

/-- The arrays, by offset. -/
def byteArrs : List ByteArr := [.vkey, .key, .state, .rk, .ibuf, .obuf]

/-- Whether an offset lies in an array. -/
def ByteArr.holds (b : ByteArr) (off : Nat) : Bool := decide (b.base ≤ off ∧ off < b.base + b.size)

/-- The array an offset lies in, if any. -/
def arrAt (off : Nat) : Option ByteArr := byteArrs.find? fun b => b.holds off

/-- The canonical form of the memory: addresses strictly rising, every cell inside an array, and no cell that
holds what an unlisted one reads as. Equal memories are then equal lists. -/
abbrev Memory.wf (m : List Host.Cell) : Prop :=
  m.Pairwise (fun c d => c.1 < d.1) ∧ ∀ c ∈ m, c.2 ≠ unlistedByte ∧ (arrAt c.1).isSome = true

/-- The offsets of the RAMs whose reset contents are unspecified: RK, IBUF and OBUF (U3). -/
def ramOffsets : List Nat :=
  List.range' ByteArr.rk.base ByteArr.rk.size ++ List.range' ByteArr.ibuf.base ByteArr.ibuf.size ++
    List.range' ByteArr.obuf.base ByteArr.obuf.size

/-- FREE VALUE. Memory after a reset that is the `n`-th draw: each byte of RK, IBUF and OBUF arbitrary and
independent, VKEY, KEY and STATE zero (10_state.md R56, U3, log 7). -/
def powerOnMemory (n : Nat) : List Host.Cell :=
  (ramOffsets.map fun off => (off, Config.powerOnByte n off)).filter fun c => decide (c.2 ≠ unlistedByte)

/-- The bytes of an array. -/
def arrBytes (b : ByteArr) (n : Nat) (s : State) : List Byte := readBytes s.mem b.base n

/-- An array with a byte string stored at its start. -/
def putArr (b : ByteArr) (bs : List Byte) (s : State) : State :=
  { s with mem := writeBytes s.mem b.base bs }

/-- The word of an array at a window offset (R63). -/
def readArrWord (off : Nat) (s : State) : Word :=
  le32 (readByte s.mem off) (readByte s.mem (off + 1)) (readByte s.mem (off + 2)) (readByte s.mem (off + 3))

/-- A host write of a word to an array. KEY and VKEY lose their valid flag (10_state.md R30, R31); RK and OBUF are
RO, so nothing happens (R23, R48, R52). -/
def writeArrWord (b : ByteArr) (off : Nat) (v : Word) (s : State) : State :=
  match b with
  | .vkey => clearVkvalid { s with mem := writeBytes s.mem off (wordBytes v) }
  | .key => clearKvalid { s with mem := writeBytes s.mem off (wordBytes v) }
  | .state => { s with mem := writeBytes s.mem off (wordBytes v) }
  | .rk => s
  | .ibuf => { s with mem := writeBytes s.mem off (wordBytes v) }
  | .obuf => s

/-! ## The command handshake -/

/-- What `exec` and `step` answer. -/
abbrev Result := Host.Outcome State Fault Refusal

/-- Acceptance of a CMD write while BUSY = 0 (10_state.md R27). No decoding happens here. -/
def accept (v : Word) (s : State) : State :=
  { s with pending := v, busy := true, err := false, errCode := 0x00 }

/-- Successful completion: BUSY falls, and nothing else changes (70_reset_and_hazards.md R283). ERR and ERRCODE stay as
acceptance left them (10_state.md R28). -/
def complete (s : State) : State := { s with busy := false }

/-- Taking an error: the failing completion of 60_exceptions.md R258. Nothing else is written, nothing is saved and
control goes nowhere (R261); the next acceptance clears it, which is the only return (R268). -/
def fail (c : ErrorCode) (s : State) : State :=
  { s with err := true, errCode := c.code, busy := false }

/-- A command's step that completes with its writes made in `s`. -/
def completed (s : State) : Result := .next (complete s)

/-- A command's step that raises an error. -/
def failing (c : ErrorCode) (s : State) : Result := .next (fail c s)

/-! ## The register map (20_memory.md R62) -/

/-- The registers of the map that are not words of a byte array. -/
inductive Reg where
  /-- CMD (10_state.md R24), WO. -/
  | cmd
  /-- STATUS (R25), RO. -/
  | status
  /-- INLEN (R32), RW. -/
  | inlen
  /-- OUTLEN (R33), RO. -/
  | outlen
  /-- GF_A (R34), RW. -/
  | gfA
  /-- GF_B (R34), RW. -/
  | gfB
  /-- GF_P (R35), RO. -/
  | gfP
  /-- SHIFT (R36), RW. -/
  | shift
  /-- VKLEN (R37), RW. -/
  | vklen
  /-- VKIDX (R38), RO. -/
  | vkidx
  /-- H0 (R49), RW. -/
  | h0
  /-- H1 (R49), RW. -/
  | h1
  /-- H2 (R49), RW. -/
  | h2
  /-- H3 (R49), RW. -/
  | h3
  /-- MLEN_LO (R50), RW. -/
  | mlenLo
  /-- MLEN_HI (R50), RW. -/
  | mlenHi
  /-- P (R40), RW. -/
  | p
  /-- Q (R40), RW. -/
  | q
  /-- E (R41), RO. -/
  | e
  /-- N_LO (R42), RO. -/
  | nLo
  /-- N_HI (R42), RO. -/
  | nHi
  /-- PHI_LO (R42), RO. -/
  | phiLo
  /-- PHI_HI (R42), RO. -/
  | phiHi
  /-- D_LO (R42), RO. -/
  | dLo
  /-- D_HI (R42), RO. -/
  | dHi
  /-- X_LO (R43), RW. -/
  | xLo
  /-- X_HI (R43), RW. -/
  | xHi
  /-- Y_LO (R43), RW. -/
  | yLo
  /-- Y_HI (R43), RW. -/
  | yHi
  /-- M_LO (R43), RW. -/
  | mLo
  /-- M_HI (R43), RW. -/
  | mHi
  /-- R_LO (R44), RO. -/
  | rLo
  /-- R_HI (R44), RO. -/
  | rHi
  /-- KEYLEN (R45), RW. -/
  | keylen
  /-- NR (R47), RO. -/
  | nr
deriving DecidableEq, Repr

/-- The window offset of a register (R62). -/
def Reg.offset : Reg → Nat
  | .cmd => 0x0000
  | .status => 0x0004
  | .inlen => 0x0008
  | .outlen => 0x000C
  | .gfA => 0x0020
  | .gfB => 0x0024
  | .gfP => 0x0028
  | .shift => 0x0040
  | .vklen => 0x0044
  | .vkidx => 0x0048
  | .h0 => 0x0080
  | .h1 => 0x0084
  | .h2 => 0x0088
  | .h3 => 0x008C
  | .mlenLo => 0x0090
  | .mlenHi => 0x0094
  | .p => 0x00A0
  | .q => 0x00A4
  | .e => 0x00A8
  | .nLo => 0x00B0
  | .nHi => 0x00B4
  | .phiLo => 0x00B8
  | .phiHi => 0x00BC
  | .dLo => 0x00C0
  | .dHi => 0x00C4
  | .xLo => 0x00C8
  | .xHi => 0x00CC
  | .yLo => 0x00D0
  | .yHi => 0x00D4
  | .mLo => 0x00D8
  | .mHi => 0x00DC
  | .rLo => 0x00E0
  | .rHi => 0x00E4
  | .keylen => 0x0120
  | .nr => 0x0124

/-- The width in bits of a register (R62). -/
def Reg.width : Reg → Nat
  | .cmd => Config.busW
  | .status => Config.busW
  | .inlen => 13
  | .outlen => 13
  | .gfA => 8
  | .gfB => 8
  | .gfP => 8
  | .shift => 8
  | .vklen => 6
  | .vkidx => 5
  | .h0 => Config.busW
  | .h1 => Config.busW
  | .h2 => Config.busW
  | .h3 => Config.busW
  | .mlenLo => Config.busW
  | .mlenHi => Config.busW
  | .p => Config.pqW
  | .q => Config.pqW
  | .e => Config.busW
  | .nLo => Config.busW
  | .nHi => Config.busW
  | .phiLo => Config.busW
  | .phiHi => Config.busW
  | .dLo => Config.busW
  | .dHi => Config.busW
  | .xLo => Config.busW
  | .xHi => Config.busW
  | .yLo => Config.busW
  | .yHi => Config.busW
  | .mLo => Config.busW
  | .mHi => Config.busW
  | .rLo => Config.busW
  | .rHi => Config.busW
  | .keylen => 6
  | .nr => 4

/-- The register at a window offset, if one is there (R62). -/
def regAt (off : Nat) : Option Reg :=
  match off with
  | 0x0000 => some .cmd
  | 0x0004 => some .status
  | 0x0008 => some .inlen
  | 0x000C => some .outlen
  | 0x0020 => some .gfA
  | 0x0024 => some .gfB
  | 0x0028 => some .gfP
  | 0x0040 => some .shift
  | 0x0044 => some .vklen
  | 0x0048 => some .vkidx
  | 0x0080 => some .h0
  | 0x0084 => some .h1
  | 0x0088 => some .h2
  | 0x008C => some .h3
  | 0x0090 => some .mlenLo
  | 0x0094 => some .mlenHi
  | 0x00A0 => some .p
  | 0x00A4 => some .q
  | 0x00A8 => some .e
  | 0x00B0 => some .nLo
  | 0x00B4 => some .nHi
  | 0x00B8 => some .phiLo
  | 0x00BC => some .phiHi
  | 0x00C0 => some .dLo
  | 0x00C4 => some .dHi
  | 0x00C8 => some .xLo
  | 0x00CC => some .xHi
  | 0x00D0 => some .yLo
  | 0x00D4 => some .yHi
  | 0x00D8 => some .mLo
  | 0x00DC => some .mHi
  | 0x00E0 => some .rLo
  | 0x00E4 => some .rHi
  | 0x0120 => some .keylen
  | 0x0124 => some .nr
  | _ => none

/-- Reading a register: its value in the low bits, 0 above (R23). CMD reads 0 (R24), E reads 17 (R41). -/
def readReg (g : Reg) (s : State) : Word :=
  match g with
  | .cmd => 0
  | .status => statusWord s
  | .inlen => s.inlen.setWidth 32
  | .outlen => s.outlen.setWidth 32
  | .gfA => s.gfA.setWidth 32
  | .gfB => s.gfB.setWidth 32
  | .gfP => s.gfP.setWidth 32
  | .shift => s.shift.setWidth 32
  | .vklen => s.vklen.setWidth 32
  | .vkidx => s.vkidx.setWidth 32
  | .h0 => s.h0
  | .h1 => s.h1
  | .h2 => s.h2
  | .h3 => s.h3
  | .mlenLo => loWord s.mlen
  | .mlenHi => hiWord s.mlen
  | .p => s.p
  | .q => s.q
  | .e => BitVec.ofNat 32 Config.eRsa
  | .nLo => loWord s.n
  | .nHi => hiWord s.n
  | .phiLo => loWord s.phi
  | .phiHi => hiWord s.phi
  | .dLo => loWord s.d
  | .dHi => hiWord s.d
  | .xLo => loWord s.x
  | .xHi => hiWord s.x
  | .yLo => loWord s.y
  | .yHi => hiWord s.y
  | .mLo => loWord s.m
  | .mHi => hiWord s.m
  | .rLo => loWord s.r
  | .rHi => hiWord s.r
  | .keylen => s.keylen.setWidth 32
  | .nr => s.nr.setWidth 32

/-- Writing a register while BUSY = 0: the low bits are stored and the rest ignored; a write to an RO register does
nothing (R23). CMD accepts a command (R27), KEYLEN clears KVALID (R30), VKLEN clears VKVALID (R31). -/
def writeReg (g : Reg) (v : Word) (s : State) : State :=
  match g with
  | .cmd => accept v s
  | .status => s
  | .inlen => { s with inlen := v.setWidth 13 }
  | .outlen => s
  | .gfA => { s with gfA := v.setWidth 8 }
  | .gfB => { s with gfB := v.setWidth 8 }
  | .gfP => s
  | .shift => { s with shift := v.setWidth 8 }
  | .vklen => clearVkvalid { s with vklen := v.setWidth 6 }
  | .vkidx => s
  | .h0 => { s with h0 := v }
  | .h1 => { s with h1 := v }
  | .h2 => { s with h2 := v }
  | .h3 => { s with h3 := v }
  | .mlenLo => { s with mlen := setLoWord s.mlen v }
  | .mlenHi => { s with mlen := setHiWord s.mlen v }
  | .p => { s with p := v }
  | .q => { s with q := v }
  | .e => s
  | .nLo => s
  | .nHi => s
  | .phiLo => s
  | .phiHi => s
  | .dLo => s
  | .dHi => s
  | .xLo => { s with x := setLoWord s.x v }
  | .xHi => { s with x := setHiWord s.x v }
  | .yLo => { s with y := setLoWord s.y v }
  | .yHi => { s with y := setHiWord s.y v }
  | .mLo => { s with m := setLoWord s.m v }
  | .mHi => { s with m := setHiWord s.m v }
  | .rLo => s
  | .rHi => s
  | .keylen => clearKvalid { s with keylen := v.setWidth 6 }
  | .nr => s

end Sys2Proof.Machine
end

