-- ==== Sys2Proof/Machine/Bus.lean ====
section
/-! DEFINITION. What the host and the reset input do to the core: bus accesses to the window (20_memory.md R61 to
R69, 10_state.md R23, R29, 70_reset_and_hazards.md R287) and reset (R281, R282, R292). -/

namespace Sys2Proof.Machine

/-- What a mapped offset holds (20_memory.md R62). -/
inductive Target where
  /-- A register word. -/
  | reg (g : Reg)
  /-- A word of a byte array. -/
  | arr (b : ByteArr)
deriving DecidableEq, Repr

/-- The target at a window offset; none where the offset is unmapped (R62, R67). -/
def targetAt (off : Nat) : Option Target :=
  match regAt off with
  | some g => some (.reg g)
  | none => (arrAt off).map .arr

/-- The target of an access; none where the access is a bus error: not 32 bits wide, not at a multiple of 4 (R66), or
unmapped (R67). -/
def accessTarget (a : Access) : Option Target :=
  if a.size = 4 ∧ a.off.toNat % 4 = 0 then targetAt a.off.toNat else none

/-- The window offset of a bus address; none where the address is outside the window, so that the access does not reach
the core (R61, log 4). -/
def offsetOf (addr : Nat) : Option Offset :=
  if Config.base ≤ addr ∧ addr < Config.base + Config.winBytes then some (BitVec.ofNat 14 (addr - Config.base))
  else none

/-- The access that `MemRead` or `MemWrite` at a bus address is, if it reaches the core (R61). -/
def accessAt (addr size : Nat) (op : BusOp) : Option Access :=
  (offsetOf addr).map fun off => ⟨size, off, op⟩

/-- The response to an access that is no bus error, `v` being the word read. -/
def okResponse (op : BusOp) (v : Word) : BusResponse :=
  match op with
  | .read => .data v false
  | .write _ => .done false

/-- A bus error (R66, R67): a read gets 0, nothing changes, not even OVR, and the bus may carry an error response
(60_exceptions.md R266, R267). -/
def busError (op : BusOp) (s : State) : State :=
  match op with
  | .read => { s with resp := some (.data 0 Config.busErrResp) }
  | .write _ => { s with resp := some (.done Config.busErrResp) }

/-- The stored value of a target (R23, R63). -/
def readTarget (t : Target) (off : Nat) (s : State) : Word :=
  match t with
  | .reg g => readReg g s
  | .arr _ => readArrWord off s

/-- What a write to a target does while BUSY = 0 (R23, R69). -/
def writeTarget (t : Target) (off : Nat) (v : Word) (s : State) : State :=
  match t with
  | .reg g => writeReg g v s
  | .arr b => writeArrWord b off v s

/-- Whether a read while BUSY = 1 returns the true value: STATUS and CMD only (R287). -/
def readableWhileBusy (t : Target) : Bool :=
  decide (t = .reg .status ∨ t = .reg .cmd)

/-- A read of a mapped offset. While BUSY = 1 it returns a free value, but for STATUS and CMD (R287, U4, log 8); it changes
no register (R69). -/
def readAccess (t : Target) (off : Nat) (s : State) : State :=
  if s.busy ∧ readableWhileBusy t = false then
    { s with resp := some (.data (Config.busyRead s.draws) false), draws := s.draws + 1 }
  else { s with resp := some (.data (readTarget t off s) false) }

/-- A write to a mapped offset. While BUSY = 1 it is dropped and sets OVR (10_state.md R29). The response is a normal one
(log 15). -/
def writeAccess (t : Target) (off : Nat) (v : Word) (s : State) : State :=
  let s' := if s.busy then setOvr s else writeTarget t off v s
  { s' with resp := some (.done false) }

/-- One host access. -/
def busAccess (a : Access) (s : State) : State :=
  match accessTarget a with
  | none => busError a.op s
  | some t =>
    match a.op with
    | .read => readAccess t a.off.toNat s
    | .write v => writeAccess t a.off.toNat v s

/-- FREE VALUE. The response to an access that overlaps reset: a read returns any word (70_reset_and_hazards.md R292, U5,
log 12). -/
def overlapResponse (op : BusOp) (n : Nat) : BusResponse :=
  match op with
  | .read => .data (Config.overlapRead n) (Config.overlapError n)
  | .write _ => .done (Config.overlapError n)

/-- The reset transition (R281): every register at its reset value, a pending command abandoned (R282), RK, IBUF and OBUF
unspecified (U3, log 7). An access that overlaps it is overwritten or lost, which leaves the same state (R292). The
events still to come stay. -/
def resetInput (overlap : Option Access) (s : State) : State :=
  { State.reset with
    mem := powerOnMemory s.draws
    inputs := s.inputs
    resp :=
      match overlap with
      | none => s.resp
      | some a => some (overlapResponse a.op s.draws)
    draws := s.draws + 1 }

end Sys2Proof.Machine
end

