-- ==== Sys2Proof/Machine/Operands.lean ====
section
/-! DEFINITION. The operands of the commands. No operand is encoded in a command word but AES_ADDRK's round
(30_encoding.md R95): the others are fixed registers, and each is read or written here once. -/

namespace Sys2Proof.Machine

/-- `IBUF[0..INLEN-1]`, the input of a command (10_state.md R32, R51). -/
def inputBytes (s : State) : List Byte := arrBytes .ibuf s.inlen.toNat s

/-- The output of a command: `OBUF[0..|bs|-1] <- bs; OUTLEN <- |bs|`; the bytes above stay (R33, R52). -/
def putOutput (bs : List Byte) (s : State) : State :=
  { putArr .obuf bs s with outlen := BitVec.ofNat 13 bs.length }

/-- `VKEY[0..VKLEN-1]`, the keyword (R37, R39). -/
def keywordBytes (s : State) : List Byte := arrBytes .vkey s.vklen.toNat s

/-- The normalised keyword: VKEY holds it with 0x00 above, VKLEN its length, VKIDX is 0 and VKVALID is set
(41_classical.md R134). -/
def putKeyword (k : List Byte) (s : State) : State :=
  { putArr .vkey (k ++ List.replicate (Config.vkeyBytes - k.length) 0x00) s with
    vklen := BitVec.ofNat 6 k.length, vkidx := 0, vkvalid := true }

/-- `KEY[0..KEYLEN-1]`, the AES key (R45). -/
def keyBytes (s : State) : List Byte := arrBytes .key s.keylen.toNat s

/-- `STATE[0..15]`, the AES block (R46). -/
def stateBlock (s : State) : List Byte := arrBytes .state 16 s

/-- `STATE[0..15] <- b`. -/
def putBlock (b : List Byte) (s : State) : State := putArr .state b s

/-- `RK[0..239]`, the round keys (R48). -/
def roundKeys (s : State) : List Byte := arrBytes .rk Config.rkBytes s

/-- A new key schedule: RK holds it with 0x00 above, NR its round count, and KVALID is set (44_aes.md R200). -/
def putSchedule (w : List Byte) (rounds : Nat) (s : State) : State :=
  { putArr .rk (w ++ List.replicate (Config.rkBytes - w.length) 0x00) s with
    nr := BitVec.ofNat 4 rounds, kvalid := true }

/-- An MD5 chaining value (43_md5.md R165). -/
structure Chain where
  a : Word
  b : Word
  c : Word
  d : Word
deriving DecidableEq, Repr

/-- The chaining registers H0..H3 (R49). -/
def chain (s : State) : Chain := ⟨s.h0, s.h1, s.h2, s.h3⟩

/-- `(H0, H1, H2, H3) <- h; MLEN <- len` (43_md5.md R167, R168). -/
def putChain (h : Chain) (len : DWord) (s : State) : State :=
  { s with h0 := h.a, h1 := h.b, h2 := h.c, h3 := h.d, mlen := len }

/-- `R <- v` (R44), for a value below the modulus, which fits (45_rsa.md R233). -/
def putR (v : Nat) (s : State) : State := { s with r := BitVec.ofNat 64 v }

/-- FREE VALUE. `R <- draw v with 0 ≤ v < m` (45_rsa.md R236, R237, U1, log 9). -/
def drawR (m : Nat) (s : State) : State :=
  { putR (Config.rsaDraw s.draws % m) s with draws := s.draws + 1 }

end Sys2Proof.Machine
end

