-- ==== Sys2Proof/Machine/Gf.lean ====
section
/-! DEFINITION. The GF(2^8) multiplier: GF_MUL (40_control_gf.md R113 to R116). -/

namespace Sys2Proof.Machine

/-- Multiplication by the byte 0x02 (R115). -/
def xtime (a : Byte) : Byte :=
  if a.getLsbD 7 then (a <<< 1) ^^^ 0x1B else a <<< 1

/-- The loop of R116 over the bits of `b` that are left: `k` of them, from bit `i` upward, with partial product `p`
and `t` the operand times `x^i`. -/
def gmulLoop (b : Byte) : Nat → Nat → Byte → Byte → Byte
  | 0, _, _, p => p
  | k + 1, i, t, p => gmulLoop b k (i + 1) (xtime t) (if b.getLsbD i then p ^^^ t else p)

/-- The byte product (R116). -/
def gmul (a b : Byte) : Byte := gmulLoop b 8 0 a 0

/-- GF_MUL (R113). -/
def execGfMul (s : State) : Result := completed { s with gfP := gmul s.gfA s.gfB }

end Sys2Proof.Machine
end

