-- ==== Sys2Proof/Machine/Aes.lean ====
section
/-! DEFINITION. The AES core (44_aes.md): the transforms, the key expansion, the cipher and its inverse, and the
twelve AES commands. A block is its 16 bytes in flat order, column-major (R187, 10_state.md R46). -/

namespace Sys2Proof.Machine

/-! ## Transforms -/

/-- `S(r, c)`: row `r`, column `c` of a block (10_state.md R46). -/
def cell (b : List Byte) (r c : Nat) : Byte := b.getD (r + 4 * c) 0

/-- The block whose row `r`, column `c` is `f r c`. -/
def blockOf (f : Nat → Nat → Byte) : List Byte := (List.range 16).map fun i => f (i % 4) (i / 4)

/-- SubBytes (R188). -/
def subBytes (b : List Byte) : List Byte := b.map sbox

/-- InvSubBytes (R188). -/
def invSubBytes (b : List Byte) : List Byte := b.map invSbox

/-- ShiftRows (R189): row `r` rotates left by `r` columns. -/
def shiftRows (b : List Byte) : List Byte := blockOf fun r c => cell b r ((c + r) % 4)

/-- InvShiftRows (R189): `(c - r) mod 4`, Euclidean, which is `(c + 4 - r) mod 4` for `r ≤ 3`. -/
def invShiftRows (b : List Byte) : List Byte := blockOf fun r c => cell b r ((c + 4 - r) % 4)

/-- One byte of a column times a row of a matrix whose first row is `[k0, k1, k2, k3]` and whose row `r` is that row rotated
right by `r` (R190, R195). -/
def mixByte (k0 k1 k2 k3 : Byte) (b : List Byte) (r c : Nat) : Byte :=
  gmul k0 (cell b r c) ^^^ gmul k1 (cell b ((r + 1) % 4) c) ^^^ gmul k2 (cell b ((r + 2) % 4) c) ^^^
    gmul k3 (cell b ((r + 3) % 4) c)

/-- MixColumns (R190). -/
def mixColumns (b : List Byte) : List Byte := blockOf (mixByte 0x02 0x03 0x01 0x01 b)

/-- InvMixColumns (R195). -/
def invMixColumns (b : List Byte) : List Byte := blockOf (mixByte 0x0E 0x0B 0x0D 0x09 b)

/-- Bytewise xor. -/
def xorBytes (a b : List Byte) : List Byte := List.zipWith (· ^^^ ·) a b

/-- Round key `r`: `RK[16r..16r+15]` (10_state.md R48). -/
def roundKey (rk : List Byte) (r : Nat) : List Byte := (List.range 16).map fun i => rk.getD (16 * r + i) 0

/-- AddRoundKey (R196). -/
def addRoundKey (b rk : List Byte) (r : Nat) : List Byte := xorBytes b (roundKey rk r)

/-! ## Key expansion -/

/-- A legal key length in bytes (R186). -/
def legalKeyLength (n : Nat) : Bool := decide (n = 16 ∨ n = 24 ∨ n = 32)

/-- RotWord (R197). -/
def rotWord (w : List Byte) : List Byte := w.rotateLeft 1

/-- SubWord (R197). -/
def subWord (w : List Byte) : List Byte := w.map sbox

/-- `Rcon[j]` (R198). -/
def rcon (j : Nat) : List Byte := [rc j, 0x00, 0x00, 0x00]

/-- The number of rounds for a key of `nk` words: `Nr = Nk + 6` (R186). -/
def roundsOf (nk : Nat) : Nat := nk + 6

/-- What is xored into `w[i-Nk]` to give `w[i]` (R199). -/
def scheduleTemp (nk i : Nat) (prev : List Byte) : List Byte :=
  if i % nk = 0 then xorBytes (subWord (rotWord prev)) (rcon (i / nk))
  else if nk = 8 ∧ i % nk = 4 then subWord prev
  else prev

/-- The words of a schedule with the next one appended (R199). -/
def expandStep (nk : Nat) (ws : List (List Byte)) : List (List Byte) :=
  ws ++ [xorBytes (ws.getD (ws.length - nk) []) (scheduleTemp nk ws.length (ws.getD (ws.length - 1) []))]

/-- The schedule words `w[0 .. 4(Nr+1)-1]` of a key (R199). -/
def scheduleWords (key : List Byte) : List (List Byte) :=
  let nk := key.length / 4
  (List.range (4 * (roundsOf nk + 1) - nk)).foldl (fun ws _ => expandStep nk ws)
    ((List.range nk).map fun i => (key.drop (4 * i)).take 4)

/-- KeyExpansion (R199): the schedule's bytes in RK order (R187). -/
def keyExpansion (key : List Byte) : List Byte := (scheduleWords key).flatten

/-! ## Cipher and inverse cipher -/

/-- Round `r` of `rounds` (R211): MixColumns is left out of the last. -/
def cipherRound (rk : List Byte) (rounds : Nat) (b : List Byte) (r : Nat) : List Byte :=
  let t := shiftRows (subBytes b)
  addRoundKey (if r = rounds then t else mixColumns t) rk r

/-- Cipher (R211). -/
def cipher (b rk : List Byte) (rounds : Nat) : List Byte :=
  (List.range' 1 rounds).foldl (cipherRound rk rounds) (addRoundKey b rk 0)

/-- Round `r` of the inverse cipher (R212): InvMixColumns is left out of round 0. -/
def invCipherRound (rk b : List Byte) (r : Nat) : List Byte :=
  let t := addRoundKey (invSubBytes (invShiftRows b)) rk r
  if r = 0 then t else invMixColumns t

/-- InvCipher (R212): rounds `Nr-1` down to 0. -/
def invCipher (b rk : List Byte) (rounds : Nat) : List Byte :=
  (List.range rounds).reverse.foldl (invCipherRound rk) (addRoundKey b rk rounds)

/-- `pkcs7(m)` (R201), for at most 16 bytes: shorter input gets `16 - L` copies of the byte `16 - L`. -/
def pkcs7 (m : List Byte) : List Byte :=
  m ++ List.replicate (16 - m.length) (BitVec.ofNat 8 (16 - m.length))

/-! ## Commands -/

/-- The writes of AES_KEYEXP, which AES_ENC and AES_DEC make too (R200, R215, R216). -/
def expandKey (s : State) : State :=
  putSchedule (keyExpansion (keyBytes s)) (roundsOf (s.keylen.toNat / 4)) s

/-- AES_KEYEXP (R200). -/
def execAesKeyexp (s : State) : Result :=
  if legalKeyLength s.keylen.toNat = false then failing .invalidKeyLength s
  else completed (expandKey s)

/-- AES_LOAD (R202). -/
def execAesLoad (s : State) : Result :=
  if s.inlen.toNat > 16 then failing .lengthError s
  else completed (putBlock (pkcs7 (inputBytes s)) s)

/-- AES_STORE (R203). -/
def execAesStore (s : State) : Result := completed (putOutput (stateBlock s) s)

/-- AES_ADDRK r (R204). -/
def execAesAddrk (r : Nat) (s : State) : Result :=
  if s.kvalid = false then failing .keyNotExpanded s
  else if r > s.nr.toNat then failing .roundOutOfRange s
  else completed (putBlock (addRoundKey (stateBlock s) (roundKeys s) r) s)

/-- The shape of the six AES commands that apply one transform to STATE (R205 to R210). -/
def transformState (f : List Byte → List Byte) (s : State) : Result :=
  completed (putBlock (f (stateBlock s)) s)

/-- AES_SUBBYTES (R205). -/
def execAesSubbytes (s : State) : Result := transformState subBytes s

/-- AES_INVSUBBYTES (R206). -/
def execAesInvsubbytes (s : State) : Result := transformState invSubBytes s

/-- AES_SHIFTROWS (R207). -/
def execAesShiftrows (s : State) : Result := transformState shiftRows s

/-- AES_INVSHIFTROWS (R208). -/
def execAesInvshiftrows (s : State) : Result := transformState invShiftRows s

/-- AES_MIXCOLUMNS (R209). -/
def execAesMixcolumns (s : State) : Result := transformState mixColumns s

/-- AES_INVMIXCOLUMNS (R210). -/
def execAesInvmixcolumns (s : State) : Result := transformState invMixColumns s

/-- The writes of AES_ENC and AES_DEC: the schedule, then STATE and OBUF with the block that `f` makes of the
round keys and the round count (R215, R216). -/
def runBlock (f : List Byte → Nat → List Byte) (s : State) : State :=
  let out := f (keyExpansion (keyBytes s)) (roundsOf (s.keylen.toNat / 4))
  putOutput out (putBlock out (expandKey s))

/-- AES_ENC (R215). -/
def execAesEnc (s : State) : Result :=
  if legalKeyLength s.keylen.toNat = false then failing .invalidKeyLength s
  else if s.inlen.toNat > 16 then failing .lengthError s
  else completed (runBlock (fun rk rounds => cipher (pkcs7 (inputBytes s)) rk rounds) s)

/-- AES_DEC (R216). The padding is not removed. -/
def execAesDec (s : State) : Result :=
  if legalKeyLength s.keylen.toNat = false then failing .invalidKeyLength s
  else if s.inlen.toNat ≠ 16 then failing .lengthError s
  else completed (runBlock (fun rk rounds => invCipher (inputBytes s) rk rounds) s)

end Sys2Proof.Machine
end

