-- ==== Sys2Proof/Machine/Base64.lean ====
section
/-! DEFINITION. The Base64 encoder/decoder: B64_ENC, B64_DEC (42_base64.md). Both are written as the rules are, over
the bitstream. -/

namespace Sys2Proof.Machine

/-! ## Alphabet and bits -/

/-- `ALPHA[v]` (R146). -/
def alpha (v : Nat) : Byte :=
  if v < 26 then BitVec.ofNat 8 (0x41 + v)
  else if v < 52 then BitVec.ofNat 8 (0x61 + (v - 26))
  else if v < 62 then BitVec.ofNat 8 (0x30 + (v - 52))
  else if v = 62 then 0x2B
  else 0x2F

/-- The pad marker `=` (R146). -/
def padByte : Byte := 0x3D

/-- `val(c)` (R146): defined for the 64 symbols only. -/
def symbolValue (c : Byte) : Option Nat :=
  if 0x41 ≤ c.toNat ∧ c.toNat ≤ 0x5A then some (c.toNat - 0x41)
  else if 0x61 ≤ c.toNat ∧ c.toNat ≤ 0x7A then some (c.toNat - 0x61 + 26)
  else if 0x30 ≤ c.toNat ∧ c.toNat ≤ 0x39 then some (c.toNat - 0x30 + 52)
  else if c.toNat = 0x2B then some 62
  else if c.toNat = 0x2F then some 63
  else none

/-- A byte that B64_DEC accepts: `=` or a symbol (R149). -/
def validSymbol (c : Byte) : Bool := decide (c = padByte) || (symbolValue c).isSome

/-- The low `k` bits of a number, most significant first (R147). -/
def bitsMsb : Nat → Nat → List Bool
  | 0, _ => []
  | k + 1, v => v.testBit k :: bitsMsb k v

/-- The number a bit string stands for, most significant bit first (R147). -/
def bitsValue (bits : List Bool) : Nat := bits.foldl (fun v b => 2 * v + b.toNat) 0

/-- The first `n` groups of `k` bits of a bit string. -/
def bitGroups (k : Nat) : Nat → List Bool → List (List Bool)
  | 0, _ => []
  | n + 1, bits => bits.take k :: bitGroups k n (bits.drop k)

/-! ## Encode and decode -/

/-- The bitstream of R148: eight bits a byte, zero-padded to a multiple of six. -/
def encodeBits (bs : List Byte) : List Bool :=
  bs.flatMap (fun b => bitsMsb 8 b.toNat) ++ List.replicate ((6 - (8 * bs.length) % 6) % 6) false

/-- The text of a byte string (R148): six-bit groups through the alphabet, then the pads. -/
def base64Encode (bs : List Byte) : List Byte :=
  (bitGroups 6 ((encodeBits bs).length / 6) (encodeBits bs)).map (fun g => alpha (bitsValue g)) ++
    List.replicate ((3 - bs.length % 3) % 3) padByte

/-- `dec(T)` (R150): every `=` removed and counted, the final 2·padCount bits dropped, an incomplete last group discarded. -/
def base64Decode (t : List Byte) : List Byte :=
  let symbols := t.filter fun c => decide (c ≠ padByte)
  let bits := symbols.flatMap fun c => bitsMsb 6 ((symbolValue c).getD 0)
  let kept := bits.take (bits.length - 2 * (t.length - symbols.length))
  (bitGroups 8 (kept.length / 8) kept).map fun g => BitVec.ofNat 8 (bitsValue g)

/-! ## Commands -/

/-- B64_ENC (R148). -/
def execB64Enc (s : State) : Result :=
  if s.inlen.toNat > Config.b64eMax then failing .lengthError s
  else completed (putOutput (base64Encode (inputBytes s)) s)

/-- B64_DEC (R151): the length first, then every input byte, then the output. -/
def execB64Dec (s : State) : Result :=
  if s.inlen.toNat > Config.bufBytes then failing .lengthError s
  else if (inputBytes s).all validSymbol = false then failing .invalidAlphabetCharacter s
  else completed (putOutput (base64Decode (inputBytes s)) s)

end Sys2Proof.Machine
end

