-- ==== Sys2Proof/Machine/Classical.lean ====
section
/-! DEFINITION. The classical-cipher unit: CAES_ENC, CAES_DEC, VIG_KEY, VIG_ENC, VIG_DEC (41_classical.md). -/

namespace Sys2Proof.Machine

/-! ## Letters (R126) -/

/-- `A`–`Z`. -/
def isUpper (b : Byte) : Bool := decide (0x41 ≤ b.toNat ∧ b.toNat ≤ 0x5A)

/-- `a`–`z`. -/
def isLower (b : Byte) : Bool := decide (0x61 ≤ b.toNat ∧ b.toNat ≤ 0x7A)

/-- A letter; every other byte, 0x80 and above included, is a non-letter. -/
def isLetter (b : Byte) : Bool := isUpper b || isLower b

/-- The code of the first letter of the byte's case. -/
def letterBase (b : Byte) : Nat := if isUpper b then 0x41 else 0x61

/-- The letter of the byte's case at a position taken modulo 26, Euclidean (R127, R133, 00_scope.md R10). -/
def letterAt (b : Byte) (pos : Int) : Byte := BitVec.ofNat 8 (letterBase b + (pos % 26).toNat)

/-- A letter moved `k` places forward in its own case. -/
def letterForward (b : Byte) (k : Nat) : Byte := letterAt b ((b.toNat : Int) - letterBase b + k)

/-- A letter moved `k` places backward in its own case. -/
def letterBackward (b : Byte) (k : Nat) : Byte := letterAt b ((b.toNat : Int) - letterBase b - k)

/-! ## Caesar -/

/-- `caesarF(b, s)` (R127). -/
def caesarF (s b : Byte) : Byte := if isLetter b then letterForward b s.toNat else b

/-- `caesarB(b, s)` (R127). -/
def caesarB (s b : Byte) : Byte := if isLetter b then letterBackward b s.toNat else b

/-- The shape of CAES_ENC and CAES_DEC: one byte map over the input (R129, R130). -/
def mapInput (f : Byte → Byte) (s : State) : Result :=
  if s.inlen.toNat > Config.bufBytes then failing .lengthError s
  else completed (putOutput ((inputBytes s).map f) s)

/-- CAES_ENC (R129). -/
def execCaesEnc (s : State) : Result := mapInput (caesarF s.shift) s

/-- CAES_DEC (R130). -/
def execCaesDec (s : State) : Result := mapInput (caesarB s.shift) s

/-! ## Vigenère -/

/-- `norm(K)` (R132): the letters, in order, each uppercased. -/
def normKeyword (k : List Byte) : List Byte := (k.filter isLetter).map fun b => b &&& 0xDF

/-- VIG_KEY (R134). -/
def execVigKey (s : State) : Result :=
  if s.vklen.toNat > Config.vkeyBytes then failing .lengthError s
  else if (normKeyword (keywordBytes s)).length = 0 then failing .missingKeyword s
  else completed (putKeyword (normKeyword (keywordBytes s)) s)

/-- `vigF(b, k)` (R133), for a letter `b` and a keyword letter `k`. -/
def vigF (b k : Byte) : Byte := letterForward b (k.toNat - 0x41)

/-- `vigB(b, k)` (R133), for a letter `b` and a keyword letter `k`. -/
def vigB (b k : Byte) : Byte := letterBackward b (k.toNat - 0x41)

/-- The loop of R135: the output for a text, and the key index after it. The index advances on letters only. -/
def vigLoop (f : Byte → Byte → Byte) (key : List Byte) : Nat → List Byte → List Byte × Nat
  | j, [] => ([], j)
  | j, b :: bs =>
    if isLetter b then
      let rest := vigLoop f key ((j + 1) % key.length) bs
      (f b (key.getD j 0) :: rest.1, rest.2)
    else
      let rest := vigLoop f key j bs
      (b :: rest.1, rest.2)

/-- The shape of VIG_ENC and VIG_DEC (R135, R136). -/
def vigRun (f : Byte → Byte → Byte) (s : State) : Result :=
  if s.vkvalid = false then failing .missingKeyword s
  else if s.inlen.toNat > Config.bufBytes then failing .lengthError s
  else
    let out := vigLoop f (keywordBytes s) s.vkidx.toNat (inputBytes s)
    completed { putOutput out.1 s with vkidx := BitVec.ofNat 5 out.2 }

/-- VIG_ENC (R135). -/
def execVigEnc (s : State) : Result := vigRun vigF s

/-- VIG_DEC (R136). -/
def execVigDec (s : State) : Result := vigRun vigB s

end Sys2Proof.Machine
end

