-- ==== Sys2Proof/Machine/Control.lean ====
section
/-! DEFINITION. The control commands: NOP and CLRST (40_control_gf.md R111, R112). -/

namespace Sys2Proof.Machine

/-- NOP (R111): no operation. -/
def execNop (s : State) : Result := completed s

/-- CLRST (R112): clear the sticky overrun flag, even one set while the CLRST itself was BUSY. -/
def execClrst (s : State) : Result := completed (clearOvr s)

end Sys2Proof.Machine
end

