-- ==== Sys2Proof/Machine/Md5.lean ====
section
/-! DEFINITION. The MD5 engine: MD5_INIT, MD5_UPDATE, MD5_FINAL (43_md5.md). -/

namespace Sys2Proof.Machine

/-! ## Step constants -/

/-- The K column of the table of R162, one row per round of 16 steps. -/
def md5KRows : List (List Nat) :=
  [[0xD76AA478, 0xE8C7B756, 0x242070DB, 0xC1BDCEEE, 0xF57C0FAF, 0x4787C62A, 0xA8304613, 0xFD469501,
    0x698098D8, 0x8B44F7AF, 0xFFFF5BB1, 0x895CD7BE, 0x6B901122, 0xFD987193, 0xA679438E, 0x49B40821],
   [0xF61E2562, 0xC040B340, 0x265E5A51, 0xE9B6C7AA, 0xD62F105D, 0x02441453, 0xD8A1E681, 0xE7D3FBC8,
    0x21E1CDE6, 0xC33707D6, 0xF4D50D87, 0x455A14ED, 0xA9E3E905, 0xFCEFA3F8, 0x676F02D9, 0x8D2A4C8A],
   [0xFFFA3942, 0x8771F681, 0x6D9D6122, 0xFDE5380C, 0xA4BEEA44, 0x4BDECFA9, 0xF6BB4B60, 0xBEBFBC70,
    0x289B7EC6, 0xEAA127FA, 0xD4EF3085, 0x04881D05, 0xD9D4D039, 0xE6DB99E5, 0x1FA27CF8, 0xC4AC5665],
   [0xF4292244, 0x432AFF97, 0xAB9423A7, 0xFC93A039, 0x655B59C3, 0x8F0CCC92, 0xFFEFF47D, 0x85845DD1,
    0x6FA87E4F, 0xFE2CE6E0, 0xA3014314, 0x4E0811A1, 0xF7537E82, 0xBD3AF235, 0x2AD7D2BB, 0xEB86D391]]

/-- The rotation amounts of R162, one row of four per round. -/
def md5RotRows : List (List Nat) :=
  [[7, 12, 17, 22], [5, 9, 14, 20], [4, 11, 16, 23], [6, 10, 15, 21]]

/-- `K[i]` (R162). -/
def md5K (i : Nat) : Word := BitVec.ofNat 32 ((md5KRows.getD (i / 16) []).getD (i % 16) 0)

/-- `s[i]` (R162). -/
def md5Rot (i : Nat) : Nat := (md5RotRows.getD (i / 16) []).getD (i % 4) 0

/-- `g(i)`, the message word of step `i` (R163). -/
def md5Word (i : Nat) : Nat :=
  match i / 16 with
  | 0 => i
  | 1 => (5 * i + 1) % 16
  | 2 => (3 * i + 5) % 16
  | _ => (7 * i) % 16

/-- The nonlinear function of step `i`: F, G, H, I by round (R165). -/
def md5Fun (i : Nat) (b c d : Word) : Word :=
  match i / 16 with
  | 0 => (b &&& c) ||| (~~~b &&& d)
  | 1 => (b &&& d) ||| (c &&& ~~~d)
  | 2 => b ^^^ c ^^^ d
  | _ => c ^^^ (b ||| ~~~d)

/-! ## Compression -/

/-- `Mw[j]`, the sixteen little-endian words of a block (R161). -/
def messageWords (blk : List Byte) : List Word :=
  (List.range 16).map fun j =>
    le32 (blk.getD (4 * j) 0) (blk.getD (4 * j + 1) 0) (blk.getD (4 * j + 2) 0) (blk.getD (4 * j + 3) 0)

/-- One of the 64 steps (R165). -/
def md5Step (mw : List Word) (v : Chain) (i : Nat) : Chain :=
  let t := v.a + md5Fun i v.b v.c v.d + md5K i + mw.getD (md5Word i) 0
  ⟨v.d, v.b + t.rotateLeft (md5Rot i), v.b, v.c⟩

/-- `compress(h, blk)` (R165): 64 steps, then the value before the block is added back in. -/
def compress (h : Chain) (blk : List Byte) : Chain :=
  let v := (List.range 64).foldl (md5Step (messageWords blk)) h
  ⟨h.a + v.a, h.b + v.b, h.c + v.c, h.d + v.d⟩

/-- The whole 64-byte blocks of a byte string folded into a chaining value, in order (R167, R168). -/
def absorb (h : Chain) (bs : List Byte) : Chain :=
  (List.range (bs.length / 64)).foldl (fun h j => compress h ((bs.drop (64 * j)).take 64)) h

/-- `le64` of R164: the eight bytes of a value, bits 7:0 first. -/
def le64Bytes (v : DWord) : List Byte := wordBytes (loWord v) ++ wordBytes (hiWord v)

/-- `pad(t, total)` (R164), for a tail of at most 63 bytes: 0x80, the fewest zero bytes that leave 56 modulo 64, and the
bit length modulo 2^64. -/
def md5Pad (t : List Byte) (total : DWord) : List Byte :=
  t ++ [0x80] ++ List.replicate ((120 - (t.length + 1) % 64) % 64) 0x00 ++ le64Bytes (8 * total)

/-- The digest of a chaining value: A, B, C, D, each little-endian (R168). -/
def digestBytes (h : Chain) : List Byte :=
  wordBytes h.a ++ wordBytes h.b ++ wordBytes h.c ++ wordBytes h.d

/-- The MD5 initial constants (R166). -/
def md5Init : Chain := ⟨0x67452301, 0xEFCDAB89, 0x98BADCFE, 0x10325476⟩

/-! ## Commands -/

/-- MD5_INIT (R166). -/
def execMd5Init (s : State) : Result := completed (putChain md5Init 0 s)

/-- MD5_UPDATE (R167). -/
def execMd5Update (s : State) : Result :=
  if s.inlen.toNat > Config.bufBytes ∨ s.inlen.toNat % 64 ≠ 0 then failing .lengthError s
  else completed (putChain (absorb (chain s) (inputBytes s)) (s.mlen + s.inlen.setWidth 64) s)

/-- MD5_FINAL (R168). The whole blocks of the input, then the padded tail. -/
def execMd5Final (s : State) : Result :=
  if s.inlen.toNat > Config.bufBytes then failing .lengthError s
  else
    let total := s.mlen + s.inlen.setWidth 64
    let tail := (inputBytes s).drop (64 * (s.inlen.toNat / 64))
    let h := absorb (absorb (chain s) (inputBytes s)) (md5Pad tail total)
    completed (putOutput (digestBytes h) (putChain h total s))

end Sys2Proof.Machine
end

