-- ==== Sys2Proof/Machine/Rsa.lean ====
section
/-! DEFINITION. The RSA modular-exponentiation unit: RSA_KEYGEN, RSA_ENC, RSA_DEC, RSA_MODEXP, RSA_MODINV
(45_rsa.md). Results are exact integers (R231). -/

namespace Sys2Proof.Machine

/-! ## Arithmetic -/

/-- The loop of R232 for an exponent of at most `k` bits. -/
def modexpLoop (m : Nat) : Nat → Nat → Nat → Nat → Nat
  | 0, r, _, _ => r
  | k + 1, r, b, y =>
    modexpLoop m k (if y % 2 = 1 then r * b % m else r) (b * b % m) (y / 2)

/-- `modexp(x, y, m)` (R232) for an exponent below 2^64 and `m ≥ 1`. -/
def modexp (x y m : Nat) : Nat := modexpLoop m Config.rsaW (1 % m) (x % m) y

/-- The loop of R234: the coefficient of the last nonzero remainder. Each step is one division; `k` bounds their number. -/
def euclidLoop : Nat → Nat → Nat → Int → Int → Int
  | 0, _, _, s, _ => s
  | k + 1, g, h, s, t =>
    if h = 0 then s else euclidLoop k h (g % h) t (s - (g / h : Nat) * t)

/-- How many divisions the extended Euclidean algorithm is given: two for each of 64 bits, and two more. For a modulus below
2^64 it ends before (log 14). -/
def euclidSteps : Nat := 2 * Config.rsaW + 2

/-- `modinv(a, m)` (R234), for `m ≥ 1` and `gcd(a mod m, m) = 1`. -/
def modinv (a m : Nat) : Nat := (euclidLoop euclidSteps m (a % m) 0 1 % (m : Int)).toNat

/-! ## Commands -/

/-- RSA_KEYGEN (R235). -/
def execRsaKeygen (s : State) : Result :=
  let n := s.p.toNat * s.q.toNat
  let phi := (s.p.toNat - 1) * (s.q.toNat - 1)
  if s.p.toNat < 2 ∨ s.q.toNat < 2 then failing .rsaDomain s
  else if Nat.gcd Config.eRsa phi ≠ 1 then failing .noInverse s
  else
    completed
      { s with
        n := BitVec.ofNat 64 n, phi := BitVec.ofNat 64 phi,
        d := BitVec.ofNat 64 (modinv Config.eRsa phi) }

/-- The shape of RSA_ENC and RSA_DEC: `X ^ e mod N`, and a free value below N where `X ≥ N` (R236, R237, U1). -/
def rsaPower (e : Nat) (s : State) : Result :=
  if s.n.toNat = 0 then failing .modulusZero s
  else if s.x.toNat < s.n.toNat then completed (putR (modexp s.x.toNat e s.n.toNat) s)
  else completed (drawR s.n.toNat s)

/-- RSA_ENC (R236). -/
def execRsaEnc (s : State) : Result := rsaPower Config.eRsa s

/-- RSA_DEC (R237). -/
def execRsaDec (s : State) : Result := rsaPower s.d.toNat s

/-- RSA_MODEXP (R238), exact for every X. -/
def execRsaModexp (s : State) : Result :=
  if s.m.toNat = 0 then failing .modulusZero s
  else completed (putR (modexp s.x.toNat s.y.toNat s.m.toNat) s)

/-- RSA_MODINV (R239). -/
def execRsaModinv (s : State) : Result :=
  if s.m.toNat = 0 then failing .modulusZero s
  else if Nat.gcd (s.x.toNat % s.m.toNat) s.m.toNat ≠ 1 then failing .noInverse s
  else completed (putR (modinv s.x.toNat s.m.toNat) s)

end Sys2Proof.Machine
end

