-- ==== Sys2Proof/Machine/Dispatch.lean ====
section
/-! DEFINITION. From a command to its meaning: one arm per constructor of Instr. -/

namespace Sys2Proof.Machine

def exec (i : Instr) (s : State) : Host.Outcome State Fault Refusal :=
  match i with
  | .nop => Sys2Proof.Machine.execNop s
  | .clrst => Sys2Proof.Machine.execClrst s
  | .gfMul => Sys2Proof.Machine.execGfMul s
  | .caesEnc => Sys2Proof.Machine.execCaesEnc s
  | .caesDec => Sys2Proof.Machine.execCaesDec s
  | .vigKey => Sys2Proof.Machine.execVigKey s
  | .vigEnc => Sys2Proof.Machine.execVigEnc s
  | .vigDec => Sys2Proof.Machine.execVigDec s
  | .b64Enc => Sys2Proof.Machine.execB64Enc s
  | .b64Dec => Sys2Proof.Machine.execB64Dec s
  | .md5Init => Sys2Proof.Machine.execMd5Init s
  | .md5Update => Sys2Proof.Machine.execMd5Update s
  | .md5Final => Sys2Proof.Machine.execMd5Final s
  | .aesKeyexp => Sys2Proof.Machine.execAesKeyexp s
  | .aesLoad => Sys2Proof.Machine.execAesLoad s
  | .aesStore => Sys2Proof.Machine.execAesStore s
  | .aesAddrk r => Sys2Proof.Machine.execAesAddrk r s
  | .aesSubbytes => Sys2Proof.Machine.execAesSubbytes s
  | .aesInvsubbytes => Sys2Proof.Machine.execAesInvsubbytes s
  | .aesShiftrows => Sys2Proof.Machine.execAesShiftrows s
  | .aesInvshiftrows => Sys2Proof.Machine.execAesInvshiftrows s
  | .aesMixcolumns => Sys2Proof.Machine.execAesMixcolumns s
  | .aesInvmixcolumns => Sys2Proof.Machine.execAesInvmixcolumns s
  | .aesEnc => Sys2Proof.Machine.execAesEnc s
  | .aesDec => Sys2Proof.Machine.execAesDec s
  | .rsaKeygen => Sys2Proof.Machine.execRsaKeygen s
  | .rsaEnc => Sys2Proof.Machine.execRsaEnc s
  | .rsaDec => Sys2Proof.Machine.execRsaDec s
  | .rsaModexp => Sys2Proof.Machine.execRsaModexp s
  | .rsaModinv => Sys2Proof.Machine.execRsaModinv s

end Sys2Proof.Machine
end

