-- ==== Sys2Proof/Machine/Engine.lean ====
section
/-! DEFINITION. The engine's step (70_reset_and_hazards.md R283) and the order of events (20_memory.md R71, R284). -/

namespace Sys2Proof.Machine

/-- The engine step (R283), for a state with BUSY = 1: decode PENDING, then run the command, or fail with IllegalCommand
(60_exceptions.md R257). -/
def engineStep (s : State) : Result :=
  match decode s.pending with
  | .ok i => exec i s
  | .error _ => failing .illegalCommand s

/-- The engine's turn: its step if it holds a command; with BUSY = 0 it is idle and nothing changes (10_state.md R26,
60_exceptions.md R273). -/
def engineTurn (s : State) : Result := if s.busy then engineStep s else .next s

/-- The next event. The inputs come in arrival order (R71); where none is left the engine has its turn, so that every
accepted command is executed (R284, log 2). -/
def nextEvent (s : State) : Result :=
  match s.inputs with
  | [] => engineTurn s
  | .engine :: rest => engineTurn { s with inputs := rest }
  | .access a :: rest => .next (busAccess a { s with inputs := rest })
  | .reset overlap :: rest => .next (resetInput overlap { s with inputs := rest })

/-- A state whose very next step executes a command word: the word accepted as a CMD write accepts it (R27), and the
engine's turn first among the inputs (log 3). -/
def placeCommand (v : Word) (s : State) : State :=
  { accept v s with inputs := .engine :: s.inputs }

end Sys2Proof.Machine
end

