-- ==== Sys2Proof/Safety.lean ====
section
/-! DEFINITION. What counts as a safe run, and the invariant of the core: what its registers mean to each other
whenever it stands between two steps. -/

namespace Sys2Proof.Machine

/-- A safe run: no number of steps ends in a fault or a refusal. -/
def Safe (s : State) : Prop := ∀ k, ∃ t, Sys2Proof.core.run k s = .next t

/-- ERR and ERRCODE agree, only codes of the core are recorded, and both are clear while BUSY = 1 (10_state.md R27, R28,
60_exceptions.md R256, R263, 70_reset_and_hazards.md R287). -/
structure StatusInv (s : State) : Prop where
  busy_clear : s.busy = true → s.err = false
  clear_code : s.err = false → s.errCode = 0x00
  error_code : s.err = true → ∃ c : ErrorCode, c ≠ .malformedCiphertext ∧ s.errCode = c.code

/-- OUTLEN counts bytes of OBUF (10_state.md R33, R52). -/
def OutlenInv (s : State) : Prop := s.outlen.toNat ≤ Config.bufBytes

/-- VKVALID = 1 means that VKEY and VKLEN hold a normalised, non-empty keyword with 0x00 above it, and then
`VKIDX < VKLEN` (10_state.md R25, R37, R38, 41_classical.md R134). -/
structure KeywordInv (s : State) : Prop where
  length_pos : s.vkvalid = true → 1 ≤ s.vklen.toNat
  length_le : s.vkvalid = true → s.vklen.toNat ≤ Config.vkeyBytes
  index_lt : s.vkvalid = true → s.vkidx.toNat < s.vklen.toNat
  upper : s.vkvalid = true → ∀ b ∈ keywordBytes s, isUpper b = true
  zero_above : s.vkvalid = true → ∀ i, s.vklen.toNat ≤ i → i < Config.vkeyBytes →
    readByte s.mem (ByteArr.vkey.base + i) = 0x00

/-- KVALID = 1 means that RK and NR hold the key schedule of the current KEY and KEYLEN (10_state.md R25, R30,
44_aes.md R200). -/
structure ScheduleInv (s : State) : Prop where
  legal : s.kvalid = true → legalKeyLength s.keylen.toNat = true
  rounds : s.kvalid = true → s.nr.toNat = roundsOf (s.keylen.toNat / 4)
  schedule : s.kvalid = true → roundKeys s =
    keyExpansion (keyBytes s) ++ List.replicate (Config.rkBytes - (keyExpansion (keyBytes s)).length) 0x00

/-- N ≠ 0 means that PHI and D belong to a derived key: D is the inverse of 17 modulo PHI (45_rsa.md R234, R235). -/
structure RsaKeyInv (s : State) : Prop where
  phi_pos : s.n.toNat ≠ 0 → s.phi.toNat ≠ 0
  d_lt : s.n.toNat ≠ 0 → s.d.toNat < s.phi.toNat
  inverse : s.n.toNat ≠ 0 → Config.eRsa * s.d.toNat % s.phi.toNat = 1 % s.phi.toNat

/-- The invariant of the core. -/
structure Inv (s : State) : Prop where
  memory : Memory.wf s.mem
  status : StatusInv s
  outlen : OutlenInv s
  keyword : KeywordInv s
  schedule : ScheduleInv s
  rsaKey : RsaKeyInv s

/-! ## The words claims use

Each is written from the spec's own numbers, not from the definitions of the machine, so that a claim holds the
machine against them. -/

/-- A failing completion with an error number (60_exceptions.md R258). -/
def failed (code : Byte) (s : State) : State := { s with err := true, errCode := code, busy := false }

/-- The byte string `bs` is stored at offset `a`, and every other byte reads as before. -/
def Stored (m m' : List Host.Cell) (a : Nat) (bs : List Byte) : Prop :=
  (∀ i, i < bs.length → readByte m' (a + i) = bs.getD i 0) ∧
    ∀ x, x < a ∨ a + bs.length ≤ x → readByte m' x = readByte m x

/-- `t` is `s` after a command that writes STATE and nothing else, byte `i` of STATE being `f i`. -/
def WritesBlock (s t : State) (f : Nat → Byte) : Prop :=
  t = { s with mem := t.mem, busy := false } ∧
    (∀ i, i < 16 → readByte t.mem (0x0130 + i) = f i) ∧
    ∀ x, x < 0x0130 ∨ 0x0140 ≤ x → readByte t.mem x = readByte s.mem x

/-- The engine has its turn in `s`, and takes its step in `u`: `s` without the event that gave the turn
(70_reset_and_hazards.md R283, R284). -/
def EngineTurn (s u : State) : Prop :=
  (s.inputs = [] ∧ u = s) ∨ ∃ rest, s.inputs = .engine :: rest ∧ u = { s with inputs := rest }

/-- The next event of `s` is a host access that is 32 bits wide (20_memory.md R66). -/
def NextAccess (s : State) (off : Nat) (op : BusOp) (rest : List Input) : Prop :=
  ∃ o : Offset, o.toNat = off ∧ s.inputs = .access ⟨4, o, op⟩ :: rest

/-- The next event of `s` is a reset. -/
def NextReset (s : State) : Prop := ∃ overlap rest, s.inputs = .reset overlap :: rest

/-- The 30 OP values of 30_encoding.md R95. -/
def opValues : List Nat :=
  [0x00, 0x01, 0x10, 0x20, 0x21, 0x22, 0x23, 0x24, 0x30, 0x31, 0x40, 0x41, 0x42, 0x50, 0x51] ++
    [0x52, 0x53, 0x54, 0x55, 0x56, 0x57, 0x58, 0x59, 0x5A, 0x5B, 0x60, 0x61, 0x62, 0x63, 0x64]

/-- A legal command word (30_encoding.md R96). -/
def LegalWord (w : Word) : Prop :=
  w.toNat / 2 ^ 16 = 0 ∧ w.toNat % 2 ^ 8 ∈ opValues ∧ (w.toNat / 2 ^ 8 % 2 ^ 8 = 0 ∨ w.toNat % 2 ^ 8 = 0x53)

/-- The offsets of the map of 20_memory.md R62. -/
def MappedOffset (off : Nat) : Prop :=
  off % 4 = 0 ∧
    (off ≤ 0x000C ∨ (0x0020 ≤ off ∧ off ≤ 0x0028) ∨ (0x0040 ≤ off ∧ off ≤ 0x0048) ∨ (0x0060 ≤ off ∧ off ≤ 0x0094) ∨
      (0x00A0 ≤ off ∧ off ≤ 0x00A8) ∨ (0x00B0 ≤ off ∧ off ≤ 0x00E4) ∨ (0x0100 ≤ off ∧ off ≤ 0x0124) ∨
      (0x0130 ≤ off ∧ off ≤ 0x013C) ∨ (0x0400 ≤ off ∧ off ≤ 0x04EC) ∨ (0x1000 ≤ off ∧ off ≤ 0x1FFC) ∨
      (0x2000 ≤ off ∧ off ≤ 0x2FFC))

/-- The RW registers of the map that are no words of a byte array, but for CMD: offset and width (R62). -/
def rwRegisters : List (Nat × Nat) :=
  [(0x0008, 13), (0x0020, 8), (0x0024, 8), (0x0040, 8), (0x0044, 6), (0x0080, 32), (0x0084, 32), (0x0088, 32)] ++
    [(0x008C, 32), (0x0090, 32), (0x0094, 32), (0x00A0, 32), (0x00A4, 32), (0x00C8, 32), (0x00CC, 32)] ++
    [(0x00D0, 32), (0x00D4, 32), (0x00D8, 32), (0x00DC, 32), (0x0120, 6)]

/-- The words of the byte arrays the host may write: VKEY, KEY, STATE, IBUF (R62). -/
def RwArrayWord (off : Nat) : Prop :=
  off % 4 = 0 ∧ ((0x0060 ≤ off ∧ off ≤ 0x007C) ∨ (0x0100 ≤ off ∧ off ≤ 0x011C) ∨ (0x0130 ≤ off ∧ off ≤ 0x013C) ∨
    (0x1000 ≤ off ∧ off ≤ 0x1FFC))

/-- The RO words of the map: STATUS, OUTLEN, GF_P, VKIDX, E, N, PHI, D, R, NR, RK, OBUF (R62). -/
def RoWord (off : Nat) : Prop :=
  off % 4 = 0 ∧ (off = 0x0004 ∨ off = 0x000C ∨ off = 0x0028 ∨ off = 0x0048 ∨ off = 0x00A8 ∨
    (0x00B0 ≤ off ∧ off ≤ 0x00C4) ∨ off = 0x00E0 ∨ off = 0x00E4 ∨ off = 0x0124 ∨ (0x0400 ≤ off ∧ off ≤ 0x04EC) ∨
    (0x2000 ≤ off ∧ off ≤ 0x2FFC))

/-- What a read while BUSY = 0 answers at every offset of the map that is no word of a byte array (10_state.md R23,
20_memory.md R62, R64, R73): the register at that offset, zero-extended, or the low or the high word of a 64-bit one. CMD reads
0 (R24), STATUS the sum of its fields (R25), E 17 (R41). -/
def idleReads (s : State) : List (Nat × Nat) :=
  [(0x0000, 0),
    (0x0004, s.busy.toNat + 2 * s.err.toNat + 4 * s.ovr.toNat + 8 * s.kvalid.toNat + 16 * s.vkvalid.toNat +
      256 * s.errCode.toNat),
    (0x0008, s.inlen.toNat), (0x000C, s.outlen.toNat)] ++
  [(0x0020, s.gfA.toNat), (0x0024, s.gfB.toNat), (0x0028, s.gfP.toNat)] ++
  [(0x0040, s.shift.toNat), (0x0044, s.vklen.toNat), (0x0048, s.vkidx.toNat)] ++
  [(0x0080, s.h0.toNat), (0x0084, s.h1.toNat), (0x0088, s.h2.toNat), (0x008C, s.h3.toNat)] ++
  [(0x0090, s.mlen.toNat % 2 ^ 32), (0x0094, s.mlen.toNat / 2 ^ 32)] ++
  [(0x00A0, s.p.toNat), (0x00A4, s.q.toNat), (0x00A8, 17)] ++
  [(0x00B0, s.n.toNat % 2 ^ 32), (0x00B4, s.n.toNat / 2 ^ 32)] ++
  [(0x00B8, s.phi.toNat % 2 ^ 32), (0x00BC, s.phi.toNat / 2 ^ 32)] ++
  [(0x00C0, s.d.toNat % 2 ^ 32), (0x00C4, s.d.toNat / 2 ^ 32)] ++
  [(0x00C8, s.x.toNat % 2 ^ 32), (0x00CC, s.x.toNat / 2 ^ 32)] ++
  [(0x00D0, s.y.toNat % 2 ^ 32), (0x00D4, s.y.toNat / 2 ^ 32)] ++
  [(0x00D8, s.m.toNat % 2 ^ 32), (0x00DC, s.m.toNat / 2 ^ 32)] ++
  [(0x00E0, s.r.toNat % 2 ^ 32), (0x00E4, s.r.toNat / 2 ^ 32)] ++
  [(0x0120, s.keylen.toNat), (0x0124, s.nr.toNat)]

/-- The words of the byte arrays, the writable ones and RK and OBUF (R62, R63). -/
def ArrayWord (off : Nat) : Prop :=
  RwArrayWord off ∨ (off % 4 = 0 ∧ ((0x0400 ≤ off ∧ off ≤ 0x04EC) ∨ (0x2000 ≤ off ∧ off ≤ 0x2FFC)))

/-- A byte moved `k` places in its alphabet, as 41_classical.md R126, R127 and R133 say: a letter stays in its case, every other
byte is kept. -/
def letterShift (b : Byte) (k : Int) : Nat :=
  if 0x41 ≤ b.toNat ∧ b.toNat ≤ 0x5A then 0x41 + (((b.toNat : Int) - 0x41 + k) % 26).toNat
  else if 0x61 ≤ b.toNat ∧ b.toNat ≤ 0x7A then 0x61 + (((b.toNat : Int) - 0x61 + k) % 26).toNat
  else b.toNat

/-- The number of letters among the first `i` input bytes (R126). -/
def lettersBefore (s : State) (i : Nat) : Nat :=
  (readBytes s.mem 0x1000 i).countP fun b =>
    decide ((0x41 ≤ b.toNat ∧ b.toNat ≤ 0x5A) ∨ (0x61 ≤ b.toNat ∧ b.toNat ≤ 0x7A))

/-- The keyword position that the letter at input index `i` uses: the index advances on letters only (41_classical.md R135). -/
def keyIndexAt (s : State) (i : Nat) : Nat := (s.vkidx.toNat + lettersBefore s i) % s.vklen.toNat

/-- The Base64 alphabet as the characters of 42_base64.md R146. -/
def alphabet : List Nat :=
  "ABCDEFGHIJKLMNOPQRSTUVWXYZabcdefghijklmnopqrstuvwxyz0123456789+/".toList.map Char.toNat

/-- The K column of the table of 43_md5.md R162, from `K[0]`, eight a row. -/
def md5Constants : List Word :=
  [0xD76AA478, 0xE8C7B756, 0x242070DB, 0xC1BDCEEE, 0xF57C0FAF, 0x4787C62A, 0xA8304613, 0xFD469501] ++
    [0x698098D8, 0x8B44F7AF, 0xFFFF5BB1, 0x895CD7BE, 0x6B901122, 0xFD987193, 0xA679438E, 0x49B40821] ++
    [0xF61E2562, 0xC040B340, 0x265E5A51, 0xE9B6C7AA, 0xD62F105D, 0x02441453, 0xD8A1E681, 0xE7D3FBC8] ++
    [0x21E1CDE6, 0xC33707D6, 0xF4D50D87, 0x455A14ED, 0xA9E3E905, 0xFCEFA3F8, 0x676F02D9, 0x8D2A4C8A] ++
    [0xFFFA3942, 0x8771F681, 0x6D9D6122, 0xFDE5380C, 0xA4BEEA44, 0x4BDECFA9, 0xF6BB4B60, 0xBEBFBC70] ++
    [0x289B7EC6, 0xEAA127FA, 0xD4EF3085, 0x04881D05, 0xD9D4D039, 0xE6DB99E5, 0x1FA27CF8, 0xC4AC5665] ++
    [0xF4292244, 0x432AFF97, 0xAB9423A7, 0xFC93A039, 0x655B59C3, 0x8F0CCC92, 0xFFEFF47D, 0x85845DD1] ++
    [0x6FA87E4F, 0xFE2CE6E0, 0xA3014314, 0x4E0811A1, 0xF7537E82, 0xBD3AF235, 0x2AD7D2BB, 0xEB86D391]

/-- The commands one after another, each on the state the one before it left. -/
def runAll : List Instr → State → Result
  | [], s => .next s
  | i :: is, s =>
    match exec i s with
    | .next t => runAll is t
    | .fault r => .fault r
    | .refused r => .refused r

/-- The step commands of a middle round `r` (44_aes.md R214). -/
def middleRound (r : Nat) : List Instr := [.aesSubbytes, .aesShiftrows, .aesMixcolumns, .aesAddrk r]

/-- The step commands of R214 for `rounds` rounds. -/
def cipherCommands (rounds : Nat) : List Instr :=
  Instr.aesAddrk 0 :: List.append ((List.range' 1 (rounds - 1)).flatMap middleRound)
    [.aesSubbytes, .aesShiftrows, .aesAddrk rounds]

/-- The inverse step commands of a middle round `r` (R212, R214). -/
def invMiddleRound (r : Nat) : List Instr := [.aesInvshiftrows, .aesInvsubbytes, .aesAddrk r, .aesInvmixcolumns]

/-- The inverse sequence of R212 and R214 for `rounds` rounds. -/
def invCipherCommands (rounds : Nat) : List Instr :=
  Instr.aesAddrk rounds :: List.append ((List.range' 1 (rounds - 1)).reverse.flatMap invMiddleRound)
    [.aesInvshiftrows, .aesInvsubbytes, .aesAddrk 0]

end Sys2Proof.Machine
end

