-- ==== Sys2Proof/Certificates/Slice0/Obligations.lean ====
section
/-! DEFINITION. The statements for the provers. Numbers (offsets, limits, error codes, letters) are the spec's own and are
written out; the functions of the machine stand only where a statement is about them. -/

section

open Sys2Proof Sys2Proof.Machine

/-! ## Encoding and decoding -/

/-- Words written out from 30_encoding.md R91, R95 and R98: every command, and one illegal word of each kind. -/
def Obligations.SpecWordsDecode : Prop :=
  decode 0x00000000 = .ok .nop ∧ decode 0x00000001 = .ok .clrst ∧ decode 0x00000010 = .ok .gfMul ∧
  decode 0x00000020 = .ok .caesEnc ∧ decode 0x00000021 = .ok .caesDec ∧ decode 0x00000022 = .ok .vigKey ∧
  decode 0x00000023 = .ok .vigEnc ∧ decode 0x00000024 = .ok .vigDec ∧ decode 0x00000030 = .ok .b64Enc ∧
  decode 0x00000031 = .ok .b64Dec ∧ decode 0x00000040 = .ok .md5Init ∧ decode 0x00000041 = .ok .md5Update ∧
  decode 0x00000042 = .ok .md5Final ∧ decode 0x00000050 = .ok .aesKeyexp ∧ decode 0x00000051 = .ok .aesLoad ∧
  decode 0x00000052 = .ok .aesStore ∧ decode 0x00000A53 = .ok (.aesAddrk 10) ∧
  decode 0x0000FF53 = .ok (.aesAddrk 255) ∧ decode 0x00000054 = .ok .aesSubbytes ∧
  decode 0x00000055 = .ok .aesInvsubbytes ∧ decode 0x00000056 = .ok .aesShiftrows ∧
  decode 0x00000057 = .ok .aesInvshiftrows ∧ decode 0x00000058 = .ok .aesMixcolumns ∧
  decode 0x00000059 = .ok .aesInvmixcolumns ∧ decode 0x0000005A = .ok .aesEnc ∧ decode 0x0000005B = .ok .aesDec ∧
  decode 0x00000060 = .ok .rsaKeygen ∧ decode 0x00000061 = .ok .rsaEnc ∧ decode 0x00000062 = .ok .rsaDec ∧
  decode 0x00000063 = .ok .rsaModexp ∧ decode 0x00000064 = .ok .rsaModinv ∧ encode .aesEnc = 0x0000005A ∧
  encode (.aesAddrk 10) = 0x00000A53 ∧ decode 0x00000A5A = .error .argNonzero ∧
  decode 0x00010000 = .error .rsvNonzero ∧ decode 0x00000002 = .error .opReserved

/-- R97 and R98: the decoder and the encoder are inverse to each other, for every word and every command. -/
def Obligations.DecodeInvertsEncode : Prop :=
  ∀ (w : Word) (i : Instr), decode w = .ok i ↔ (i.wellFormed = true ∧ encode i = w)

/-- R97: what `decode` gives on every word, said by arithmetic on the word. -/
def Obligations.DecodeFollowsTheMap : Prop :=
  ∀ w : Word,
    (LegalWord w → ∃ i, decode w = .ok i ∧ i.op.toNat = w.toNat % 256 ∧ i.arg = w.toNat / 256 % 256) ∧
    (¬ LegalWord w → ∃ e, decode w = .error e)

/-- R257: an illegal word is accepted like any command, and when it executes it completes as a failing command with code 0x01
and changes nothing else. -/
def Obligations.IllegalWordFails : Prop :=
  (∀ s u : State, s.busy = true → EngineTurn s u → ¬ LegalWord s.pending →
    step s = .next { u with err := true, errCode := 0x01, busy := false }) ∧
  (∀ (s : State) (v : Word) (rest : List Input), s.busy = false → NextAccess s 0x0000 (.write v) rest → ¬ LegalWord v →
    ∃ t, step s = .next t ∧ t.busy = true ∧ t.pending = v)

/-! ## Steps -/

/-- R283: when the engine has its turn and PENDING decodes to a command, the step is `exec` of that command. -/
def Obligations.StepRunsDecodedCommand : Prop :=
  ∀ (s u : State) (i : Instr), s.busy = true → EngineTurn s u → decode s.pending = .ok i → step s = exec i u

/-- R12, R71, R273: the other steps. Events come in arrival order, and an idle core with nothing to do keeps every
register. The list of events is the model's own (log 1, log 2). -/
def Obligations.StepDeliversEventsInOrder : Prop :=
  ∀ (s : State) (rest : List Input),
    (∀ a, s.inputs = .access a :: rest → step s = .next (busAccess a { s with inputs := rest })) ∧
    (∀ o, s.inputs = .reset o :: rest → step s = .next (resetInput o { s with inputs := rest })) ∧
    (s.busy = false → s.inputs = .engine :: rest → step s = .next { s with inputs := rest }) ∧
    (s.busy = false → s.inputs = [] → step s = .next s)

/-- R259, R261: no number of steps, from any state, ends in a stop. -/
def Obligations.EveryRunIsSafe : Prop := ∀ s : State, Safe s

/-- R258, R259: from every state every command answers a next state, with BUSY clear. Either it records no error, or it makes
exactly the three writes of a failing completion, with a code the core may raise. -/
def Obligations.CommandCompletesOrFails : Prop :=
  ∀ (i : Instr) (s : State), ∃ t, exec i s = .next t ∧ t.busy = false ∧
    ((t.err = s.err ∧ t.errCode = s.errCode) ∨
      ∃ c : ErrorCode, c ≠ .malformedCiphertext ∧ t = { s with err := true, errCode := c.code, busy := false })

/-- R260: which error a command reports, in the order of its checks. -/
def Obligations.FirstErrorIsReported : Prop :=
  ∀ s : State,
    (∀ u, s.busy = true → EngineTurn s u → ¬ LegalWord s.pending → step s = .next (failed 0x01 u)) ∧
    (4096 < s.inlen.toNat →
      exec .caesEnc s = .next (failed 0x06 s) ∧ exec .caesDec s = .next (failed 0x06 s) ∧
      exec .md5Update s = .next (failed 0x06 s) ∧ exec .md5Final s = .next (failed 0x06 s) ∧
      exec .b64Dec s = .next (failed 0x06 s)) ∧
    (3072 < s.inlen.toNat → exec .b64Enc s = .next (failed 0x06 s)) ∧
    (s.inlen.toNat % 64 ≠ 0 → exec .md5Update s = .next (failed 0x06 s)) ∧
    (16 < s.inlen.toNat → exec .aesLoad s = .next (failed 0x06 s)) ∧
    (32 < s.vklen.toNat → exec .vigKey s = .next (failed 0x06 s)) ∧
    (s.vklen.toNat ≤ 32 → (∀ b ∈ readBytes s.mem 0x0060 s.vklen.toNat, letterShift b 1 = b.toNat) →
      exec .vigKey s = .next (failed 0x03 s)) ∧
    (s.vkvalid = false → exec .vigEnc s = .next (failed 0x03 s) ∧ exec .vigDec s = .next (failed 0x03 s)) ∧
    (s.vkvalid = true → 4096 < s.inlen.toNat →
      exec .vigEnc s = .next (failed 0x06 s) ∧ exec .vigDec s = .next (failed 0x06 s)) ∧
    (s.inlen.toNat ≤ 4096 → (∃ b ∈ readBytes s.mem 0x1000 s.inlen.toNat, b.toNat ≠ 0x3D ∧ b.toNat ∉ alphabet) →
      exec .b64Dec s = .next (failed 0x04 s)) ∧
    (s.keylen.toNat ∉ [16, 24, 32] →
      exec .aesKeyexp s = .next (failed 0x02 s) ∧ exec .aesEnc s = .next (failed 0x02 s) ∧
      exec .aesDec s = .next (failed 0x02 s)) ∧
    (s.keylen.toNat ∈ [16, 24, 32] → 16 < s.inlen.toNat → exec .aesEnc s = .next (failed 0x06 s)) ∧
    (s.keylen.toNat ∈ [16, 24, 32] → s.inlen.toNat ≠ 16 → exec .aesDec s = .next (failed 0x06 s)) ∧
    (∀ r, s.kvalid = false → exec (.aesAddrk r) s = .next (failed 0x07 s)) ∧
    (∀ r, s.kvalid = true → s.nr.toNat < r → exec (.aesAddrk r) s = .next (failed 0x08 s)) ∧
    (s.p.toNat < 2 ∨ s.q.toNat < 2 → exec .rsaKeygen s = .next (failed 0x0B s)) ∧
    (2 ≤ s.p.toNat → 2 ≤ s.q.toNat → Nat.gcd 17 ((s.p.toNat - 1) * (s.q.toNat - 1)) ≠ 1 →
      exec .rsaKeygen s = .next (failed 0x0A s)) ∧
    (s.n.toNat = 0 → exec .rsaEnc s = .next (failed 0x09 s) ∧ exec .rsaDec s = .next (failed 0x09 s)) ∧
    (s.m.toNat = 0 → exec .rsaModexp s = .next (failed 0x09 s) ∧ exec .rsaModinv s = .next (failed 0x09 s)) ∧
    (s.m.toNat ≠ 0 → Nat.gcd (s.x.toNat % s.m.toNat) s.m.toNat ≠ 1 → exec .rsaModinv s = .next (failed 0x0A s))

/-! ## Control and GF(2^8) -/

/-- R111: NOP only completes, so that one accepted and executed leaves ERR and ERRCODE clear; one issued while BUSY = 1 is
dropped and sets OVR. -/
def Obligations.NopOnlyCompletes : Prop :=
  decode 0x00000000 = .ok .nop ∧
  (∀ s : State, exec .nop s = .next { s with busy := false }) ∧
  (∀ (s : State) (rest : List Input), s.busy = true → NextAccess s 0x0000 (.write 0x00000000) rest →
    ∃ r, step s = .next { s with inputs := rest, ovr := true, resp := r }) ∧
  (∀ (s : State) (rest : List Input), s.busy = false → NextAccess s 0x0000 (.write 0x00000000) (.engine :: rest) →
    ∃ t r, step s = .next t ∧
      step t = .next { s with inputs := rest, resp := r, pending := 0x00000000, err := false, errCode := 0x00 })

/-- R112: CLRST clears OVR, is the only command that changes it, and clears even the OVR that a write during its own BUSY has
set. -/
def Obligations.ClrstClearsOvr : Prop :=
  decode 0x00000001 = .ok .clrst ∧
  (∀ s : State, exec .clrst s = .next { s with ovr := false, busy := false }) ∧
  (∀ (i : Instr) (s t : State), exec i s = .next t → i ≠ .clrst → t.ovr = s.ovr) ∧
  (∀ (s : State) (off : Nat) (v : Word) (rest : List Input), s.busy = true → s.pending = 0x00000001 → MappedOffset off →
    NextAccess s off (.write v) (.engine :: rest) →
    ∃ t u, step s = .next t ∧ t.ovr = true ∧ step t = .next u ∧ u.ovr = false ∧ u.busy = false)

/-- R113: GF_MUL writes the product of GF_A and GF_B to GF_P and nothing else, with the corner values of the rule. -/
def Obligations.GfMulWritesProduct : Prop :=
  decode 0x00000010 = .ok .gfMul ∧
  (∀ s : State, exec .gfMul s = .next { s with gfP := gmul s.gfA s.gfB, busy := false }) ∧
  (∀ b, gmul 0x00 b = 0x00) ∧ (∀ b, gmul 0x01 b = b) ∧ gmul 0x80 0x02 = 0x1B ∧ gmul 0x57 0x83 = 0xC1 ∧
  (∀ a b, gmul a b = gmul b a)

/-- R114: a byte stands for a polynomial over GF(2); addition is xor, and `gmul` is the product modulo
`x^8 + x^4 + x^3 + x + 1`. -/
def Obligations.GmulIsPolynomialProduct : Prop :=
  ∀ poly : Byte → Polynomial (ZMod 2),
    (∀ b, poly b = ∑ k ∈ Finset.range 8, if b.getLsbD k then Polynomial.X ^ k else 0) →
    (∀ a b, poly (a ^^^ b) = poly a + poly b) ∧
    (∀ a b, ∃ q, poly a * poly b =
      poly (gmul a b) +
        q * (Polynomial.X ^ 8 + Polynomial.X ^ 4 + Polynomial.X ^ 3 + Polynomial.X + 1))

/-- R117: the laws of `gmul`. -/
def Obligations.GmulLaws : Prop :=
  (∀ a b, gmul a b = gmul b a) ∧ (∀ a b c, gmul (gmul a b) c = gmul a (gmul b c)) ∧
  (∀ a b c, gmul a (b ^^^ c) = gmul a b ^^^ gmul a c) ∧ (∀ a, gmul a 0x01 = a) ∧ (∀ a, gmul a 0x00 = 0x00) ∧
  (∀ a, a ≠ 0x00 → ∃ b, gmul a b = 0x01) ∧ gmul 0x53 0xCA = 0x01

/-! ## Classical ciphers -/

/-- R127, R129, R130: CAES_ENC and CAES_DEC move every letter by SHIFT and keep every other byte; OUTLEN is INLEN, and nothing
else is written. -/
def Obligations.CaesarShiftsLetters : Prop :=
  decode 0x00000020 = .ok .caesEnc ∧ decode 0x00000021 = .ok .caesDec ∧
  ∀ s : State,
    (s.inlen.toNat ≤ 4096 →
      (∃ t, exec .caesEnc s = .next t ∧ t = { s with mem := t.mem, outlen := s.inlen, busy := false } ∧
        (∀ i, i < s.inlen.toNat → (readByte t.mem (0x2000 + i)).toNat =
          letterShift (readByte s.mem (0x1000 + i)) s.shift.toNat) ∧
        ∀ x, x < 0x2000 ∨ 0x2000 + s.inlen.toNat ≤ x → readByte t.mem x = readByte s.mem x) ∧
      (∃ t, exec .caesDec s = .next t ∧ t = { s with mem := t.mem, outlen := s.inlen, busy := false } ∧
        (∀ i, i < s.inlen.toNat → (readByte t.mem (0x2000 + i)).toNat =
          letterShift (readByte s.mem (0x1000 + i)) (-(s.shift.toNat : Int))) ∧
        ∀ x, x < 0x2000 ∨ 0x2000 + s.inlen.toNat ≤ x → readByte t.mem x = readByte s.mem x)) ∧
    (4096 < s.inlen.toNat → exec .caesEnc s = .next (failed 0x06 s) ∧ exec .caesDec s = .next (failed 0x06 s))

/-- R131: CAES_DEC of the output of CAES_ENC, under the same SHIFT, gives the text back. -/
def Obligations.CaesarRoundTrip : Prop :=
  ∀ s : State, s.inlen.toNat ≤ 4096 →
    ∃ t, exec .caesEnc s = .next t ∧
      ∀ u : State, u.shift = s.shift → u.inlen = t.outlen →
        readBytes u.mem 0x1000 u.inlen.toNat = readBytes t.mem 0x2000 t.outlen.toNat →
        ∃ v, exec .caesDec u = .next v ∧ v.outlen = s.inlen ∧
          readBytes v.mem 0x2000 v.outlen.toNat = readBytes s.mem 0x1000 s.inlen.toNat

/-- R132, R134: VIG_KEY keeps the letters of the raw keyword, uppercased and in order, with 0x00 above; VKLEN is their number,
VKIDX is 0 and VKVALID is set. A keyword over 32 bytes is LengthError, one with no letter MissingKeyword. -/
def Obligations.VigKeyNormalises : Prop :=
  decode 0x00000022 = .ok .vigKey ∧
  ∀ (s : State) (k : List Byte),
    k = ((readBytes s.mem 0x0060 s.vklen.toNat).filter fun b =>
      decide ((0x41 ≤ b.toNat ∧ b.toNat ≤ 0x5A) ∨ (0x61 ≤ b.toNat ∧ b.toNat ≤ 0x7A))).map (fun b => b &&& 0xDF) →
    (32 < s.vklen.toNat → exec .vigKey s = .next (failed 0x06 s)) ∧
    (s.vklen.toNat ≤ 32 → k = [] → exec .vigKey s = .next (failed 0x03 s)) ∧
    (s.vklen.toNat ≤ 32 → k ≠ [] →
      ∃ t, exec .vigKey s = .next t ∧
        t = { s with mem := t.mem, vklen := t.vklen, vkidx := 0, vkvalid := true, busy := false } ∧
        t.vklen.toNat = k.length ∧ Stored s.mem t.mem 0x0060 (k ++ List.replicate (32 - k.length) 0x00))

/-- R133, R135, R136: with a keyword loaded VIG_ENC and VIG_DEC move each letter by the keyword letter whose index has advanced
once per letter before it, keep every other byte, and leave the index where it stands. With none loaded they report
MissingKeyword, and with one an INLEN over 4096 is LengthError. -/
def Obligations.VigenereRunningKey : Prop :=
  decode 0x00000023 = .ok .vigEnc ∧ decode 0x00000024 = .ok .vigDec ∧
  (∀ s : State, s.vkvalid = false →
    exec .vigEnc s = .next (failed 0x03 s) ∧ exec .vigDec s = .next (failed 0x03 s)) ∧
  (∀ s : State, s.vkvalid = true → 4096 < s.inlen.toNat →
    exec .vigEnc s = .next (failed 0x06 s) ∧ exec .vigDec s = .next (failed 0x06 s)) ∧
  ∀ s : State, KeywordInv s → s.vkvalid = true → s.inlen.toNat ≤ 4096 →
    (∃ t, exec .vigEnc s = .next t ∧
      t = { s with mem := t.mem, outlen := s.inlen, vkidx := t.vkidx, busy := false } ∧
      t.vkidx.toNat = keyIndexAt s s.inlen.toNat ∧
      (∀ i, i < s.inlen.toNat → (readByte t.mem (0x2000 + i)).toNat =
        letterShift (readByte s.mem (0x1000 + i)) ((readByte s.mem (0x0060 + keyIndexAt s i)).toNat - 0x41 : Int)) ∧
      ∀ x, x < 0x2000 ∨ 0x2000 + s.inlen.toNat ≤ x → readByte t.mem x = readByte s.mem x) ∧
    (∃ t, exec .vigDec s = .next t ∧
      t = { s with mem := t.mem, outlen := s.inlen, vkidx := t.vkidx, busy := false } ∧
      t.vkidx.toNat = keyIndexAt s s.inlen.toNat ∧
      (∀ i, i < s.inlen.toNat → (readByte t.mem (0x2000 + i)).toNat =
        letterShift (readByte s.mem (0x1000 + i)) (0x41 - (readByte s.mem (0x0060 + keyIndexAt s i)).toNat : Int)) ∧
      ∀ x, x < 0x2000 ∨ 0x2000 + s.inlen.toNat ≤ x → readByte t.mem x = readByte s.mem x)

/-- R137: VIG_DEC of the output of VIG_ENC, with the same keyword and started at the same index, gives the text back. -/
def Obligations.VigenereRoundTrip : Prop :=
  ∀ s : State, KeywordInv s → s.vkvalid = true → s.inlen.toNat ≤ 4096 →
    ∃ t, exec .vigEnc s = .next t ∧
      ∀ u : State, u.vkvalid = true → u.vklen = s.vklen → u.vkidx = s.vkidx →
        readBytes u.mem 0x0060 u.vklen.toNat = readBytes s.mem 0x0060 s.vklen.toNat → u.inlen = t.outlen →
        readBytes u.mem 0x1000 u.inlen.toNat = readBytes t.mem 0x2000 t.outlen.toNat →
        ∃ v, exec .vigDec u = .next v ∧ v.outlen = s.inlen ∧ v.vkidx = t.vkidx ∧
          readBytes v.mem 0x2000 v.outlen.toNat = readBytes s.mem 0x1000 s.inlen.toNat

/-! ## Base64 -/

/-- R146, R147, R148: three input bytes are one 24-bit number, whose four base-64 digits are the symbols; `=` stands where no bit
of the input falls. -/
def Obligations.Base64EncodesTriples : Prop :=
  decode 0x00000030 = .ok .b64Enc ∧
  ∀ (s : State) (b n : Nat → Nat),
    (∀ i, b i = if i < s.inlen.toNat then (readByte s.mem (0x1000 + i)).toNat else 0) →
    (∀ k, n k = b (3 * k) * 65536 + b (3 * k + 1) * 256 + b (3 * k + 2)) →
    (s.inlen.toNat ≤ 3072 →
      ∃ t, exec .b64Enc s = .next t ∧ t = { s with mem := t.mem, outlen := t.outlen, busy := false } ∧
        t.outlen.toNat = 4 * ((s.inlen.toNat + 2) / 3) ∧
        (∀ g, g < t.outlen.toNat → (readByte t.mem (0x2000 + g)).toNat =
          if 6 * g < 8 * s.inlen.toNat then alphabet.getD (n (g / 4) / 64 ^ (3 - g % 4) % 64) 0 else 0x3D) ∧
        ∀ x, x < 0x2000 ∨ 0x2000 + t.outlen.toNat ≤ x → readByte t.mem x = readByte s.mem x) ∧
    (3072 < s.inlen.toNat → exec .b64Enc s = .next (failed 0x06 s))

/-- R149, R150, R151: the symbols are the digits of one base-64 number; the output is its leading bytes, less two bits for each
`=` wherever it stands. -/
def Obligations.Base64DecodesSymbols : Prop :=
  decode 0x00000031 = .ok .b64Dec ∧
  ∀ (s : State) (text symbols : List Byte) (value pads : Nat),
    text = readBytes s.mem 0x1000 s.inlen.toNat →
    symbols = text.filter (fun c => decide (c.toNat ≠ 0x3D)) →
    pads = text.length - symbols.length →
    value = symbols.foldl (fun v c => 64 * v + alphabet.idxOf c.toNat) 0 →
    (s.inlen.toNat ≤ 4096 → (∀ c ∈ symbols, c.toNat ∈ alphabet) →
      ∃ t, exec .b64Dec s = .next t ∧ t = { s with mem := t.mem, outlen := t.outlen, busy := false } ∧
        t.outlen.toNat = (6 * symbols.length - 2 * pads) / 8 ∧
        (∀ k, k < t.outlen.toNat → (readByte t.mem (0x2000 + k)).toNat =
          value / 2 ^ (6 * symbols.length - 8 * (k + 1)) % 256) ∧
        ∀ x, x < 0x2000 ∨ 0x2000 + t.outlen.toNat ≤ x → readByte t.mem x = readByte s.mem x) ∧
    (s.inlen.toNat ≤ 4096 → (∃ c ∈ symbols, c.toNat ∉ alphabet) → exec .b64Dec s = .next (failed 0x04 s)) ∧
    (4096 < s.inlen.toNat → exec .b64Dec s = .next (failed 0x06 s))

/-- R153: B64_DEC of the output of B64_ENC gives the bytes back. -/
def Obligations.Base64RoundTrip : Prop :=
  ∀ s : State, s.inlen.toNat ≤ 3072 →
    ∃ t, exec .b64Enc s = .next t ∧
      ∀ u : State, u.inlen = t.outlen →
        readBytes u.mem 0x1000 u.inlen.toNat = readBytes t.mem 0x2000 t.outlen.toNat →
        ∃ v, exec .b64Dec u = .next v ∧ v.outlen = s.inlen ∧
          readBytes v.mem 0x2000 v.outlen.toNat = readBytes s.mem 0x1000 s.inlen.toNat

/-! ## MD5 -/

/-- R162, R163, R165: `compress` is 64 steps with F, G, H, I, the constants and rotations of the table of R162 and the word order
of R163, and the value before the block is added back in. -/
def Obligations.CompressIsSixtyFourSteps : Prop :=
  ∀ (h : Chain) (blk : List Byte) (w : Nat → Word),
    (∀ j, j < 16 → w j = le32 (blk.getD (4 * j) 0) (blk.getD (4 * j + 1) 0) (blk.getD (4 * j + 2) 0) (blk.getD (4 * j + 3) 0)) →
    ∃ v : Nat → Chain, v 0 = h ∧
      (∀ i, i < 64 → ∃ f g rot,
        (i < 16 → f = (((v i).b &&& (v i).c) ||| (~~~(v i).b &&& (v i).d)) ∧ g = i ∧
          rot = [7, 12, 17, 22].getD (i % 4) 0) ∧
        (16 ≤ i → i < 32 → f = (((v i).b &&& (v i).d) ||| ((v i).c &&& ~~~(v i).d)) ∧ g = (5 * i + 1) % 16 ∧
          rot = [5, 9, 14, 20].getD (i % 4) 0) ∧
        (32 ≤ i → i < 48 → f = ((v i).b ^^^ (v i).c ^^^ (v i).d) ∧ g = (3 * i + 5) % 16 ∧
          rot = [4, 11, 16, 23].getD (i % 4) 0) ∧
        (48 ≤ i → f = ((v i).c ^^^ ((v i).b ||| ~~~(v i).d)) ∧ g = 7 * i % 16 ∧
          rot = [6, 10, 15, 21].getD (i % 4) 0) ∧
        v (i + 1) = ⟨(v i).d, (v i).b + ((v i).a + f + md5Constants.getD i 0 + w g).rotateLeft rot, (v i).b, (v i).c⟩) ∧
      compress h blk = ⟨h.a + (v 64).a, h.b + (v 64).b, h.c + (v 64).c, h.d + (v 64).d⟩

/-- R166: MD5_INIT loads the four constants and clears MLEN. -/
def Obligations.Md5InitLoadsConstants : Prop :=
  decode 0x00000040 = .ok .md5Init ∧
  ∀ s : State, exec .md5Init s =
    .next { s with h0 := 0x67452301, h1 := 0xEFCDAB89, h2 := 0x98BADCFE, h3 := 0x10325476, mlen := 0, busy := false }

/-- R167: MD5_UPDATE folds the blocks of the input into H0..H3 in order and adds INLEN to MLEN. -/
def Obligations.Md5UpdateAbsorbsBlocks : Prop :=
  decode 0x00000041 = .ok .md5Update ∧
  ∀ s : State,
    (s.inlen.toNat ≤ 4096 → s.inlen.toNat % 64 = 0 →
      ∃ f : Nat → Chain, f 0 = ⟨s.h0, s.h1, s.h2, s.h3⟩ ∧
        (∀ j, j < s.inlen.toNat / 64 → f (j + 1) = compress (f j) (readBytes s.mem (0x1000 + 64 * j) 64)) ∧
        ∃ t, exec .md5Update s = .next t ∧
          t = { s with
            h0 := (f (s.inlen.toNat / 64)).a, h1 := (f (s.inlen.toNat / 64)).b, h2 := (f (s.inlen.toNat / 64)).c,
            h3 := (f (s.inlen.toNat / 64)).d, mlen := t.mlen, busy := false } ∧
          t.mlen.toNat = (s.mlen.toNat + s.inlen.toNat) % 2 ^ 64) ∧
    (4096 < s.inlen.toNat ∨ s.inlen.toNat % 64 ≠ 0 → exec .md5Update s = .next (failed 0x06 s))

/-- R164, R168: MD5_FINAL folds the input with its padding, 0x80, the fewest zeros and the 64-bit little-endian bit length, into
H0..H3, and stores the digest, little-endian; an INLEN over 4096 is LengthError. -/
def Obligations.Md5FinalPadsAndDigests : Prop :=
  decode 0x00000042 = .ok .md5Final ∧ (∀ s : State, 4096 < s.inlen.toNat → exec .md5Final s = .next (failed 0x06 s)) ∧
  ∀ (s : State) (z : Nat) (msg : List Byte), s.inlen.toNat ≤ 4096 → z < 64 → (s.inlen.toNat + 1 + z) % 64 = 56 →
    msg = readBytes s.mem 0x1000 s.inlen.toNat ++ [0x80] ++ List.replicate z 0x00 ++
      (List.range 8).map (fun k => BitVec.ofNat 8 (8 * (s.mlen.toNat + s.inlen.toNat) % 2 ^ 64 / 256 ^ k)) →
    ∃ f : Nat → Chain, f 0 = ⟨s.h0, s.h1, s.h2, s.h3⟩ ∧
      (∀ j, j < msg.length / 64 → f (j + 1) = compress (f j) ((msg.drop (64 * j)).take 64)) ∧
      ∃ t, exec .md5Final s = .next t ∧
        t = { s with
          h0 := (f (msg.length / 64)).a, h1 := (f (msg.length / 64)).b, h2 := (f (msg.length / 64)).c,
          h3 := (f (msg.length / 64)).d, mlen := t.mlen, mem := t.mem, outlen := 16, busy := false } ∧
        t.mlen.toNat = (s.mlen.toNat + s.inlen.toNat) % 2 ^ 64 ∧
        Stored s.mem t.mem 0x2000 ([t.h0, t.h1, t.h2, t.h3].flatMap fun h =>
          (List.range 4).map fun k => h.extractLsb' (8 * k) 8)

/-- R169: a message absorbed by MD5_UPDATE up to a multiple of 64 and finished by MD5_FINAL gives what one MD5_FINAL of the
whole message gives. -/
def Obligations.Md5SplitGivesSameDigest : Prop :=
  ∀ (s u : State) (k : Nat), s.inlen.toNat ≤ 4096 → 64 * k ≤ s.inlen.toNat →
    u.h0 = s.h0 → u.h1 = s.h1 → u.h2 = s.h2 → u.h3 = s.h3 → u.mlen = s.mlen → u.inlen.toNat = 64 * k →
    readBytes u.mem 0x1000 (64 * k) = readBytes s.mem 0x1000 (64 * k) →
    ∃ u', exec .md5Update u = .next u' ∧
      ∀ w : State, w.h0 = u'.h0 → w.h1 = u'.h1 → w.h2 = u'.h2 → w.h3 = u'.h3 → w.mlen = u'.mlen →
        w.inlen.toNat = s.inlen.toNat - 64 * k →
        readBytes w.mem 0x1000 w.inlen.toNat = readBytes s.mem (0x1000 + 64 * k) (s.inlen.toNat - 64 * k) →
        ∃ w' t, exec .md5Final w = .next w' ∧ exec .md5Final s = .next t ∧
          w'.h0 = t.h0 ∧ w'.h1 = t.h1 ∧ w'.h2 = t.h2 ∧ w'.h3 = t.h3 ∧ w'.mlen = t.mlen ∧
          readBytes w'.mem 0x2000 16 = readBytes t.mem 0x2000 16

/-! ## AES -/

/-- R199, R200: AES_KEYEXP copies the key into the first words of RK, gives every later word by the recurrence of R199, written
byte by byte, clears RK above the schedule, and sets NR and KVALID; a KEYLEN but 16, 24 and 32 is InvalidKeyLength. -/
def Obligations.KeyExpansionRecurrence : Prop :=
  decode 0x00000050 = .ok .aesKeyexp ∧
  (∀ s : State, s.keylen.toNat ∉ [16, 24, 32] → exec .aesKeyexp s = .next (failed 0x02 s)) ∧
  ∀ (s : State) (nk : Nat), s.keylen.toNat = 4 * nk → nk = 4 ∨ nk = 6 ∨ nk = 8 →
    ∃ t, exec .aesKeyexp s = .next t ∧
      t = { s with mem := t.mem, nr := t.nr, kvalid := true, busy := false } ∧ t.nr.toNat = nk + 6 ∧
      (∀ x, x < 4 * nk → readByte t.mem (0x0400 + x) = readByte s.mem (0x0100 + x)) ∧
      (∀ i k, nk ≤ i → i < 4 * (nk + 7) → k < 4 →
        readByte t.mem (0x0400 + 4 * i + k) = readByte t.mem (0x0400 + 4 * (i - nk) + k) ^^^
          (if i % nk = 0 then
            sbox (readByte t.mem (0x0400 + 4 * (i - 1) + (k + 1) % 4)) ^^^
              (if k = 0 then
                [0x01#8, 0x02#8, 0x04#8, 0x08#8, 0x10#8, 0x20#8, 0x40#8, 0x80#8, 0x1B#8, 0x36#8].getD (i / nk - 1) 0
              else 0x00)
          else if nk = 8 ∧ i % 8 = 4 then sbox (readByte t.mem (0x0400 + 4 * (i - 1) + k))
          else readByte t.mem (0x0400 + 4 * (i - 1) + k))) ∧
      (∀ x, 16 * (nk + 7) ≤ x → x < 240 → readByte t.mem (0x0400 + x) = 0x00) ∧
      ∀ x, x < 0x0400 ∨ 0x04F0 ≤ x → readByte t.mem x = readByte s.mem x

/-- R201, R202: AES_LOAD copies the input into STATE; what is left gets copies of the byte `16 - L`. -/
def Obligations.AesLoadPads : Prop :=
  decode 0x00000051 = .ok .aesLoad ∧
  ∀ s : State,
    (s.inlen.toNat ≤ 16 →
      ∃ t, exec .aesLoad s = .next t ∧
        WritesBlock s t fun i =>
          if i < s.inlen.toNat then readByte s.mem (0x1000 + i) else BitVec.ofNat 8 (16 - s.inlen.toNat)) ∧
    (16 < s.inlen.toNat → exec .aesLoad s = .next (failed 0x06 s))

/-- R203: AES_STORE copies STATE to OBUF and sets OUTLEN to 16. -/
def Obligations.AesStoreCopiesState : Prop :=
  decode 0x00000052 = .ok .aesStore ∧
  ∀ s : State, ∃ t, exec .aesStore s = .next t ∧ t = { s with mem := t.mem, outlen := 16, busy := false } ∧
    (∀ i, i < 16 → readByte t.mem (0x2000 + i) = readByte s.mem (0x0130 + i)) ∧
    ∀ x, x < 0x2000 ∨ 0x2010 ≤ x → readByte t.mem x = readByte s.mem x

/-- R196, R204: with a valid schedule and `r ≤ NR`, AES_ADDRK xors round key `r` into STATE; twice the same restores it.
With no valid schedule it reports KeyNotExpanded, and with one a round above NR is RoundOutOfRange. -/
def Obligations.AddRoundKeyXorsRoundKey : Prop :=
  (∀ r, r ≤ 255 → decode (BitVec.ofNat 32 (256 * r + 0x53)) = .ok (.aesAddrk r)) ∧
  (∀ (s : State) (r : Nat), s.kvalid = false → exec (.aesAddrk r) s = .next (failed 0x07 s)) ∧
  (∀ (s : State) (r : Nat), s.kvalid = true → s.nr.toNat < r → exec (.aesAddrk r) s = .next (failed 0x08 s)) ∧
  ∀ (s : State) (r : Nat), ScheduleInv s → s.kvalid = true → r ≤ s.nr.toNat →
    ∃ t u, exec (.aesAddrk r) s = .next t ∧
      WritesBlock s t (fun i => readByte s.mem (0x0130 + i) ^^^ readByte s.mem (0x0400 + 16 * r + i)) ∧
      exec (.aesAddrk r) t = .next u ∧ readBytes u.mem 0x0130 16 = readBytes s.mem 0x0130 16

/-- R188, R205, R206: AES_SUBBYTES and AES_INVSUBBYTES put every byte of STATE through the S-box and its inverse. -/
def Obligations.SubBytesUsesSbox : Prop :=
  decode 0x00000054 = .ok .aesSubbytes ∧ decode 0x00000055 = .ok .aesInvsubbytes ∧
  ∀ s : State,
    (∃ t, exec .aesSubbytes s = .next t ∧ WritesBlock s t fun i => sbox (readByte s.mem (0x0130 + i))) ∧
    (∃ t, exec .aesInvsubbytes s = .next t ∧ WritesBlock s t fun i => invSbox (readByte s.mem (0x0130 + i)))

/-- R192, R193: the S-box is the affine image of the inverse in GF(2^8), and the inverse S-box undoes it. -/
def Obligations.SboxMatchesAlgebra : Prop :=
  sbox 0x00 = 0x63 ∧
  (∀ a b, gmul a b = 0x01 →
    sbox a = b ^^^ b.rotateLeft 1 ^^^ b.rotateLeft 2 ^^^ b.rotateLeft 3 ^^^ b.rotateLeft 4 ^^^ 0x63) ∧
  (∀ a, invSbox (sbox a) = a) ∧ (∀ a, sbox (invSbox a) = a)

/-- R189, R207, R208: AES_SHIFTROWS and AES_INVSHIFTROWS rotate row `r` of STATE by `r` columns, left and right. -/
def Obligations.ShiftRowsRotatesRows : Prop :=
  decode 0x00000056 = .ok .aesShiftrows ∧ decode 0x00000057 = .ok .aesInvshiftrows ∧
  ∀ s : State,
    (∃ t, exec .aesShiftrows s = .next t ∧
      WritesBlock s t fun i => readByte s.mem (0x0130 + i % 4 + 4 * ((i / 4 + i % 4) % 4))) ∧
    (∃ t, exec .aesInvshiftrows s = .next t ∧
      WritesBlock s t fun i =>
        readByte s.mem (0x0130 + i % 4 + 4 * (((i / 4 : Nat) - (i % 4 : Nat) : Int) % 4).toNat))

/-- R190, R195, R209, R210: AES_MIXCOLUMNS and AES_INVMIXCOLUMNS multiply every column of STATE by the matrix of the rule. -/
def Obligations.MixColumnsMultipliesColumns : Prop :=
  decode 0x00000058 = .ok .aesMixcolumns ∧ decode 0x00000059 = .ok .aesInvmixcolumns ∧
  ∀ (s : State) (b : Nat → Nat → Byte), (∀ r c, b r c = readByte s.mem (0x0130 + r + 4 * c)) →
    (∃ t f, exec .aesMixcolumns s = .next t ∧ WritesBlock s t f ∧ ∀ c, c < 4 →
      f (4 * c) = gmul 0x02 (b 0 c) ^^^ gmul 0x03 (b 1 c) ^^^ b 2 c ^^^ b 3 c ∧
      f (4 * c + 1) = b 0 c ^^^ gmul 0x02 (b 1 c) ^^^ gmul 0x03 (b 2 c) ^^^ b 3 c ∧
      f (4 * c + 2) = b 0 c ^^^ b 1 c ^^^ gmul 0x02 (b 2 c) ^^^ gmul 0x03 (b 3 c) ∧
      f (4 * c + 3) = gmul 0x03 (b 0 c) ^^^ b 1 c ^^^ b 2 c ^^^ gmul 0x02 (b 3 c)) ∧
    (∃ t f, exec .aesInvmixcolumns s = .next t ∧ WritesBlock s t f ∧ ∀ c, c < 4 →
      f (4 * c) = gmul 0x0E (b 0 c) ^^^ gmul 0x0B (b 1 c) ^^^ gmul 0x0D (b 2 c) ^^^ gmul 0x09 (b 3 c) ∧
      f (4 * c + 1) = gmul 0x09 (b 0 c) ^^^ gmul 0x0E (b 1 c) ^^^ gmul 0x0B (b 2 c) ^^^ gmul 0x0D (b 3 c) ∧
      f (4 * c + 2) = gmul 0x0D (b 0 c) ^^^ gmul 0x09 (b 1 c) ^^^ gmul 0x0E (b 2 c) ^^^ gmul 0x0B (b 3 c) ∧
      f (4 * c + 3) = gmul 0x0B (b 0 c) ^^^ gmul 0x0D (b 1 c) ^^^ gmul 0x09 (b 2 c) ^^^ gmul 0x0E (b 3 c))

/-- R211, R215: AES_ENC writes RK, NR and KVALID as AES_KEYEXP does, and STATE and OBUF with the padded input put through the
rounds of R211. It reports InvalidKeyLength, then LengthError. -/
def Obligations.AesEncRunsCipher : Prop :=
  decode 0x0000005A = .ok .aesEnc ∧
  (∀ s : State, s.keylen.toNat ∉ [16, 24, 32] → exec .aesEnc s = .next (failed 0x02 s)) ∧
  (∀ s : State, s.keylen.toNat ∈ [16, 24, 32] → 16 < s.inlen.toNat → exec .aesEnc s = .next (failed 0x06 s)) ∧
  ∀ (s : State) (rounds : Nat), s.keylen.toNat ∈ [16, 24, 32] → s.inlen.toNat ≤ 16 → rounds = s.keylen.toNat / 4 + 6 →
    ∃ t u, exec .aesEnc s = .next t ∧ exec .aesKeyexp s = .next u ∧ t = { u with mem := t.mem, outlen := 16 } ∧
      (∀ x, (x < 0x0130 ∨ 0x0140 ≤ x) → (x < 0x2000 ∨ 0x2010 ≤ x) → readByte t.mem x = readByte u.mem x) ∧
      ∃ b : Nat → List Byte,
        b 0 = addRoundKey ((List.range 16).map fun i =>
          if i < s.inlen.toNat then readByte s.mem (0x1000 + i) else BitVec.ofNat 8 (16 - s.inlen.toNat))
          (readBytes u.mem 0x0400 240) 0 ∧
        (∀ r, 1 ≤ r → r < rounds →
          b r = addRoundKey (mixColumns (shiftRows (subBytes (b (r - 1))))) (readBytes u.mem 0x0400 240) r) ∧
        b rounds = addRoundKey (shiftRows (subBytes (b (rounds - 1)))) (readBytes u.mem 0x0400 240) rounds ∧
        readBytes t.mem 0x0130 16 = b rounds ∧ readBytes t.mem 0x2000 16 = b rounds

/-- R212, R216: AES_DEC writes RK, NR and KVALID as AES_KEYEXP does, and STATE and OBUF with the input put through the inverse
rounds of R212; it takes exactly 16 bytes. It reports InvalidKeyLength, then LengthError. -/
def Obligations.AesDecRunsInverseCipher : Prop :=
  decode 0x0000005B = .ok .aesDec ∧
  (∀ s : State, s.keylen.toNat ∉ [16, 24, 32] → exec .aesDec s = .next (failed 0x02 s)) ∧
  (∀ s : State, s.keylen.toNat ∈ [16, 24, 32] → s.inlen.toNat ≠ 16 → exec .aesDec s = .next (failed 0x06 s)) ∧
  ∀ (s : State) (rounds : Nat), s.keylen.toNat ∈ [16, 24, 32] → s.inlen.toNat = 16 → rounds = s.keylen.toNat / 4 + 6 →
    ∃ t u, exec .aesDec s = .next t ∧ exec .aesKeyexp s = .next u ∧ t = { u with mem := t.mem, outlen := 16 } ∧
      (∀ x, (x < 0x0130 ∨ 0x0140 ≤ x) → (x < 0x2000 ∨ 0x2010 ≤ x) → readByte t.mem x = readByte u.mem x) ∧
      ∃ b : Nat → List Byte,
        b rounds = addRoundKey (readBytes s.mem 0x1000 16) (readBytes u.mem 0x0400 240) rounds ∧
        (∀ r, 1 ≤ r → r < rounds →
          b r = invMixColumns (addRoundKey (invSubBytes (invShiftRows (b (r + 1)))) (readBytes u.mem 0x0400 240) r)) ∧
        b 0 = addRoundKey (invSubBytes (invShiftRows (b 1))) (readBytes u.mem 0x0400 240) 0 ∧
        readBytes t.mem 0x0130 16 = b 0 ∧ readBytes t.mem 0x2000 16 = b 0

/-- R214: after AES_KEYEXP and AES_LOAD the step commands, in the order of the rule, leave in STATE what AES_ENC computes; the
inverse sequence leaves what AES_DEC computes. -/
def Obligations.StepCommandsComposeToCipher : Prop :=
  ∀ s : State, s.keylen.toNat ∈ [16, 24, 32] →
    (s.inlen.toNat ≤ 16 →
      ∃ t u, runAll (.aesKeyexp :: .aesLoad :: cipherCommands (s.keylen.toNat / 4 + 6)) s = .next t ∧
        exec .aesEnc s = .next u ∧ t.kvalid = true ∧ readBytes t.mem 0x0130 16 = readBytes u.mem 0x0130 16) ∧
    (s.inlen.toNat = 16 →
      ∃ t u, runAll (.aesKeyexp :: .aesLoad :: invCipherCommands (s.keylen.toNat / 4 + 6)) s = .next t ∧
        exec .aesDec s = .next u ∧ t.kvalid = true ∧ readBytes t.mem 0x0130 16 = readBytes u.mem 0x0130 16)

/-- R213: AES_DEC of the output of AES_ENC under the same key gives the (padded) input back. -/
def Obligations.AesDecryptionInvertsEncryption : Prop :=
  ∀ s : State, s.keylen.toNat ∈ [16, 24, 32] → s.inlen.toNat ≤ 16 →
    ∃ t, exec .aesEnc s = .next t ∧
      ∀ u : State, u.keylen = s.keylen → readBytes u.mem 0x0100 32 = readBytes s.mem 0x0100 32 → u.inlen.toNat = 16 →
        readBytes u.mem 0x1000 16 = readBytes t.mem 0x2000 16 →
        ∃ v, exec .aesDec u = .next v ∧ readBytes v.mem 0x2000 16 = (List.range 16).map fun i =>
          if i < s.inlen.toNat then readByte s.mem (0x1000 + i) else BitVec.ofNat 8 (16 - s.inlen.toNat)

/-! ## RSA -/

/-- R233, R234, R235: RSA_KEYGEN writes the exact product, the exact totient formula and the inverse of 17, and nothing
else. It reports RsaDomain, then NoInverse. -/
def Obligations.RsaKeygenDerivesKey : Prop :=
  decode 0x00000060 = .ok .rsaKeygen ∧
  (∀ s : State, s.p.toNat < 2 ∨ s.q.toNat < 2 → exec .rsaKeygen s = .next (failed 0x0B s)) ∧
  (∀ s : State, 2 ≤ s.p.toNat → 2 ≤ s.q.toNat → Nat.gcd 17 ((s.p.toNat - 1) * (s.q.toNat - 1)) ≠ 1 →
    exec .rsaKeygen s = .next (failed 0x0A s)) ∧
  ∀ s : State, 2 ≤ s.p.toNat → 2 ≤ s.q.toNat → Nat.gcd 17 ((s.p.toNat - 1) * (s.q.toNat - 1)) = 1 →
    ∃ t, exec .rsaKeygen s = .next t ∧ t = { s with n := t.n, phi := t.phi, d := t.d, busy := false } ∧
      t.n.toNat = s.p.toNat * s.q.toNat ∧ t.phi.toNat = (s.p.toNat - 1) * (s.q.toNat - 1) ∧
      t.d.toNat < t.phi.toNat ∧ 17 * t.d.toNat % t.phi.toNat = 1 % t.phi.toNat

/-- R232, R236, R237: for `X < N` R is the exact power; for `X ≥ N > 0` it is some value below N, which nothing fixes, and the
command completes all the same. N = 0 is ModulusZero. -/
def Obligations.RsaPowersAreExact : Prop :=
  decode 0x00000061 = .ok .rsaEnc ∧ decode 0x00000062 = .ok .rsaDec ∧
  ∀ s : State,
    (s.x.toNat < s.n.toNat →
      (∃ t, exec .rsaEnc s = .next t ∧ t = { s with r := t.r, busy := false } ∧
        t.r.toNat = s.x.toNat ^ 17 % s.n.toNat) ∧
      (∃ t, exec .rsaDec s = .next t ∧ t = { s with r := t.r, busy := false } ∧
        t.r.toNat = s.x.toNat ^ s.d.toNat % s.n.toNat)) ∧
    (s.n.toNat ≠ 0 → s.n.toNat ≤ s.x.toNat →
      (∃ t, exec .rsaEnc s = .next t ∧ t = { s with r := t.r, draws := t.draws, busy := false } ∧
        t.r.toNat < s.n.toNat) ∧
      (∃ t, exec .rsaDec s = .next t ∧ t = { s with r := t.r, draws := t.draws, busy := false } ∧
        t.r.toNat < s.n.toNat)) ∧
    (s.n.toNat = 0 → exec .rsaEnc s = .next (failed 0x09 s) ∧ exec .rsaDec s = .next (failed 0x09 s))

/-- R232, R238: RSA_MODEXP is exact for every X, Y and nonzero M. -/
def Obligations.ModexpIsExact : Prop :=
  decode 0x00000063 = .ok .rsaModexp ∧
  ∀ s : State,
    (s.m.toNat ≠ 0 →
      ∃ t, exec .rsaModexp s = .next t ∧ t = { s with r := t.r, busy := false } ∧
        t.r.toNat = s.x.toNat ^ s.y.toNat % s.m.toNat) ∧
    (s.m.toNat = 0 → exec .rsaModexp s = .next (failed 0x09 s))

/-- R234, R239: RSA_MODINV gives the inverse of X modulo M in `[0, M)`. -/
def Obligations.ModinvIsInverse : Prop :=
  decode 0x00000064 = .ok .rsaModinv ∧
  ∀ s : State,
    (s.m.toNat ≠ 0 → Nat.gcd (s.x.toNat % s.m.toNat) s.m.toNat = 1 →
      ∃ t, exec .rsaModinv s = .next t ∧ t = { s with r := t.r, busy := false } ∧
        t.r.toNat < s.m.toNat ∧ s.x.toNat * t.r.toNat % s.m.toNat = 1 % s.m.toNat) ∧
    (s.m.toNat ≠ 0 → Nat.gcd (s.x.toNat % s.m.toNat) s.m.toNat ≠ 1 → exec .rsaModinv s = .next (failed 0x0A s)) ∧
    (s.m.toNat = 0 → exec .rsaModinv s = .next (failed 0x09 s))

/-- R240: with distinct primes and `gcd(17, φ) = 1`, RSA_DEC undoes RSA_ENC on every X below N and coprime to it. -/
def Obligations.EulerRoundTrip : Prop :=
  ∀ s : State, s.p.toNat.Prime → s.q.toNat.Prime → s.p ≠ s.q →
    Nat.gcd 17 ((s.p.toNat - 1) * (s.q.toNat - 1)) = 1 →
    ∃ k, exec .rsaKeygen s = .next k ∧
      ∀ x : DWord, x.toNat < k.n.toNat → Nat.gcd x.toNat k.n.toNat = 1 →
        ∃ c, exec .rsaEnc { k with x := x } = .next c ∧
          ∃ v, exec .rsaDec { c with x := c.r } = .next v ∧ v.r = x

/-! ## The bus -/

/-- R61: a bus address in the window is its offset, and no other address reaches the core. -/
def Obligations.BusAddressReachesOffset : Prop :=
  Config.base % 0x4000 = 0 ∧ (∀ off : Offset, offsetOf (Config.base + off.toNat) = some off) ∧
  ∀ addr, addr < Config.base ∨ Config.base + 0x4000 ≤ addr → offsetOf addr = none

/-- R66, R67: an access that is not 32 bits wide, not aligned, or at an unmapped offset is a bus error: a read gets 0, and no
register, flag or byte changes, not even OVR. -/
def Obligations.BadAccessChangesNothing : Prop :=
  ∀ (s : State) (a : Access) (rest : List Input), s.inputs = .access a :: rest →
    a.size ≠ 4 ∨ a.off.toNat % 4 ≠ 0 ∨ ¬ MappedOffset a.off.toNat →
    (a.op = .read → step s = .next { s with inputs := rest, resp := some (.data 0x00000000 Config.busErrResp) }) ∧
    (∀ v, a.op = .write v → step s = .next { s with inputs := rest, resp := some (.done Config.busErrResp) })

/-- R29: a write to a mapped offset while BUSY = 1 changes nothing but OVR; nothing else sets OVR, and only CLRST and reset clear
it. -/
def Obligations.BusyWriteIsDropped : Prop :=
  (∀ (s : State) (off : Nat) (v : Word) (rest : List Input), s.busy = true → MappedOffset off →
    NextAccess s off (.write v) rest → ∃ r, step s = .next { s with inputs := rest, ovr := true, resp := r }) ∧
  (∀ s t : State, step s = .next t → s.ovr = false → t.ovr = true →
    s.busy = true ∧ ∃ off v rest, MappedOffset off ∧ NextAccess s off (.write v) rest) ∧
  (∀ s t : State, step s = .next t → s.ovr = true → t.ovr = false →
    NextReset s ∨ (s.busy = true ∧ decode s.pending = .ok .clrst ∧ ∃ u, EngineTurn s u))

/-- R287: while BUSY = 1 a read of STATUS gives its true value, with BUSY set and ERR and ERRCODE clear, a read of CMD gives 0, a
read of any other mapped offset gives some word, and no register changes. -/
def Obligations.BusyReadsAreUnspecified : Prop :=
  ∀ (s : State) (off : Nat) (rest : List Input), s.busy = true → StatusInv s → MappedOffset off → NextAccess s off .read rest →
    (off = 0x0004 → ∃ w : Word, step s = .next { s with inputs := rest, resp := some (.data w false) } ∧
      w.toNat = 1 + 4 * s.ovr.toNat + 8 * s.kvalid.toNat + 16 * s.vkvalid.toNat) ∧
    (off = 0x0000 → step s = .next { s with inputs := rest, resp := some (.data 0x00000000 false) }) ∧
    (off ≠ 0x0000 → off ≠ 0x0004 →
      ∃ (w : Word) (k : Nat), step s = .next { s with inputs := rest, resp := some (.data w false), draws := k })

/-- R27: a write to CMD while BUSY = 0 latches the word, whatever it is, and sets BUSY; ERR and ERRCODE are cleared, and OVR,
KVALID and VKVALID stay. -/
def Obligations.CmdWriteIsAccepted : Prop :=
  ∀ (s : State) (v : Word) (rest : List Input), s.busy = false → NextAccess s 0x0000 (.write v) rest →
    ∃ r, step s = .next { s with
      inputs := rest, resp := r, pending := v, busy := true, err := false, errCode := 0x00 }

/-- R25: the bits of the STATUS word. -/
def Obligations.StatusWordLayout : Prop :=
  ∀ s : State, (statusWord s).toNat =
    s.busy.toNat + 2 * s.err.toNat + 4 * s.ovr.toNat + 8 * s.kvalid.toNat + 16 * s.vkvalid.toNat + 256 * s.errCode.toNat

/-- R23, R62, R63, R64, R73: while BUSY = 0, a word written to an RW register reads back with the bits of its width, and every other
offset but STATUS reads as before; a word written to a writable byte array reads back whole, its bytes lie in order from
bits 7:0, and nothing else changes but the valid flags; a write to an RO word changes nothing. A read changes no register
and answers, at every offset of the map, the register or the four bytes that stand there; E reads 17 and CMD 0. -/
def Obligations.RegistersReadBackWhatWasWritten : Prop :=
  ∀ (s : State) (off : Nat) (v : Word) (rest : List Input), s.busy = false →
    (∀ w, (off, w) ∈ rwRegisters → NextAccess s off (.write v) rest →
      ∃ t, step s = .next t ∧ t.mem = s.mem ∧ t.inputs = rest ∧ t.draws = s.draws ∧ t.busy = false ∧ t.err = s.err ∧
        t.errCode = s.errCode ∧ t.ovr = s.ovr ∧ t.pending = s.pending ∧
        (∀ rest', NextAccess t off .read rest' →
          step t = .next { t with inputs := rest', resp := some (.data (BitVec.ofNat 32 (v.toNat % 2 ^ w)) false) }) ∧
        ∀ off' rest', off' ≠ off → off' ≠ 0x0004 → NextAccess t off' .read rest' →
          ∃ r, step t = .next { t with inputs := rest', resp := r } ∧
            step { s with inputs := t.inputs } = .next { s with inputs := rest', resp := r }) ∧
    (RwArrayWord off → NextAccess s off (.write v) rest →
      ∃ t, step s = .next t ∧ t = { s with mem := t.mem, inputs := rest, resp := t.resp, kvalid := t.kvalid, vkvalid := t.vkvalid } ∧
        Stored s.mem t.mem off ((List.range 4).map fun k => v.extractLsb' (8 * k) 8) ∧
        ∀ rest', NextAccess t off .read rest' →
          step t = .next { t with inputs := rest', resp := some (.data v false) }) ∧
    (RoWord off → NextAccess s off (.write v) rest → ∃ r, step s = .next { s with inputs := rest, resp := r }) ∧
    (∀ n, (off, n) ∈ idleReads s → NextAccess s off .read rest →
      step s = .next { s with inputs := rest, resp := some (.data (BitVec.ofNat 32 n) false) }) ∧
    (ArrayWord off → NextAccess s off .read rest →
      step s = .next { s with
        inputs := rest
        resp := some (.data (BitVec.ofNat 32 ((readByte s.mem off).toNat + 256 * (readByte s.mem (off + 1)).toNat +
          65536 * (readByte s.mem (off + 2)).toNat + 16777216 * (readByte s.mem (off + 3)).toNat)) false) }) ∧
    (NextAccess s 0x00A8 .read rest → step s = .next { s with inputs := rest, resp := some (.data 17 false) }) ∧
    (NextAccess s 0x0000 .read rest → step s = .next { s with inputs := rest, resp := some (.data 0 false) })

/-! ## Flags and registers over the whole machine -/

/-- R30: KVALID is set only by AES_KEYEXP, AES_ENC and AES_DEC, and whenever they succeed; it is cleared by reset and by every
accepted write to KEY or KEYLEN, and by nothing else. -/
def Obligations.KvalidIsSetAndClearedAsStated : Prop :=
  (∀ (s t : State) (i : Instr), i ∈ [Instr.aesKeyexp, .aesEnc, .aesDec] → exec i s = .next t →
    t.kvalid = true ∨ ∃ c : ErrorCode, t = failed c.code s) ∧
  (∀ (s : State) (off : Nat) (v : Word) (rest : List Input), s.busy = false →
    off % 4 = 0 → 0x0100 ≤ off → off ≤ 0x0120 → NextAccess s off (.write v) rest →
    ∃ t, step s = .next t ∧ t.kvalid = false) ∧
  (∀ s t : State, step s = .next t → s.kvalid = false → t.kvalid = true →
    s.busy = true ∧ (∃ u, EngineTurn s u) ∧
      ∃ i ∈ [Instr.aesKeyexp, .aesEnc, .aesDec], decode s.pending = .ok i) ∧
  (∀ s t : State, step s = .next t → s.kvalid = true → t.kvalid = false →
    NextReset s ∨ (s.busy = false ∧ ∃ off v rest, 0x0100 ≤ off ∧ off ≤ 0x0120 ∧ NextAccess s off (.write v) rest)) ∧
  (∀ s t : State, NextReset s → step s = .next t → t.kvalid = false)

/-- R31: VKVALID is set only by a successful VIG_KEY; it is cleared by reset and by every accepted write to VKEY or VKLEN, and by
nothing else. -/
def Obligations.VkvalidIsSetAndClearedAsStated : Prop :=
  (∀ s t : State, exec .vigKey s = .next t → t.vkvalid = true ∨ ∃ c : ErrorCode, t = failed c.code s) ∧
  (∀ (s : State) (off : Nat) (v : Word) (rest : List Input), s.busy = false →
    off = 0x0044 ∨ (off % 4 = 0 ∧ 0x0060 ≤ off ∧ off ≤ 0x007C) → NextAccess s off (.write v) rest →
    ∃ t, step s = .next t ∧ t.vkvalid = false) ∧
  (∀ s t : State, step s = .next t → s.vkvalid = false → t.vkvalid = true →
    s.busy = true ∧ (∃ u, EngineTurn s u) ∧ decode s.pending = .ok .vigKey) ∧
  (∀ s t : State, step s = .next t → s.vkvalid = true → t.vkvalid = false →
    NextReset s ∨ (s.busy = false ∧ ∃ off v rest, (off = 0x0044 ∨ (0x0060 ≤ off ∧ off ≤ 0x007C)) ∧
      NextAccess s off (.write v) rest)) ∧
  (∀ s t : State, NextReset s → step s = .next t → t.vkvalid = false)

/-- R32, R33, R51, R95: no command writes the registers that only the host writes, nor IBUF, nor KEY; only the ten output
commands change OUTLEN or OBUF, and only the three that expand a key change NR or RK. -/
def Obligations.CommandsKeepTheirOperands : Prop :=
  ∀ (i : Instr) (s t : State), exec i s = .next t →
    t.inlen = s.inlen ∧ t.gfA = s.gfA ∧ t.gfB = s.gfB ∧ t.shift = s.shift ∧ t.keylen = s.keylen ∧ t.p = s.p ∧ t.q = s.q ∧
    t.x = s.x ∧ t.y = s.y ∧ t.m = s.m ∧ t.pending = s.pending ∧ t.inputs = s.inputs ∧ t.resp = s.resp ∧
    (∀ x, (0x0100 ≤ x ∧ x < 0x0120) ∨ (0x1000 ≤ x ∧ x < 0x2000) → readByte t.mem x = readByte s.mem x) ∧
    (i ∉ [Instr.caesEnc, .caesDec, .vigEnc, .vigDec, .b64Enc, .b64Dec, .md5Final, .aesStore, .aesEnc, .aesDec] →
      t.outlen = s.outlen ∧ ∀ x, 0x2000 ≤ x → x < 0x3000 → readByte t.mem x = readByte s.mem x) ∧
    (i ∉ [Instr.aesKeyexp, .aesEnc, .aesDec] →
      t.nr = s.nr ∧ t.kvalid = s.kvalid ∧ ∀ x, 0x0400 ≤ x → x < 0x04F0 → readByte t.mem x = readByte s.mem x)

/-- R28: besides reset, ERR and ERRCODE change only where a CMD write is accepted, which clears both, and where a command
fails, which sets both. -/
def Obligations.ErrIsWrittenAtTwoPoints : Prop :=
  ∀ s t : State, step s = .next t → t.err ≠ s.err ∨ t.errCode ≠ s.errCode →
    NextReset s ∨
    (s.busy = false ∧ (∃ v rest, NextAccess s 0x0000 (.write v) rest) ∧ t.err = false ∧ t.errCode = 0x00) ∨
    (s.busy = true ∧ ∃ (u : State) (c : ErrorCode), EngineTurn s u ∧ t = failed c.code u)

/-! ## Reset, the invariant and progress -/

/-- R56, R281, R282: reset, at any time, with or without an overlapping access, gives every register its reset value, abandons a
pending command, clears VKEY, KEY and STATE, and leaves RK, IBUF and OBUF with free values (log 7). PENDING at 0 is the
model's choice (log 11). `State.reset` has the same registers; its memory is the model's choice (log 6). -/
def Obligations.ResetGivesResetValues : Prop :=
  (∀ (s : State) (overlap : Option Access) (rest : List Input), s.inputs = .reset overlap :: rest →
    ∃ t, step s = .next t ∧ t.inputs = rest ∧
      { t with mem := [], inputs := [], resp := none, draws := 0 } = State.reset ∧
      (∀ x, x ∉ List.range' 0x0400 240 → x ∉ List.range' 0x1000 4096 → x ∉ List.range' 0x2000 4096 →
        readByte t.mem x = 0x00) ∧
      (∀ x, (0x0400 ≤ x ∧ x < 0x04F0) ∨ (0x1000 ≤ x ∧ x < 0x3000) → readByte t.mem x = Config.powerOnByte s.draws x)) ∧
  (let z := State.reset
   z.busy = false ∧ z.err = false ∧ z.ovr = false ∧ z.kvalid = false ∧ z.vkvalid = false ∧ z.errCode = 0x00 ∧
   z.inlen = 0 ∧ z.outlen = 0 ∧ z.gfA = 0x00 ∧ z.gfB = 0x00 ∧ z.gfP = 0x00 ∧ z.shift = 3 ∧ z.vklen = 0 ∧ z.vkidx = 0 ∧
   z.h0 = 0x67452301 ∧ z.h1 = 0xEFCDAB89 ∧ z.h2 = 0x98BADCFE ∧ z.h3 = 0x10325476 ∧ z.mlen = 0 ∧ z.p = 61 ∧ z.q = 53 ∧
   z.n = 0 ∧ z.phi = 0 ∧ z.d = 0 ∧ z.x = 0 ∧ z.y = 0 ∧ z.m = 0 ∧ z.r = 0 ∧ z.keylen = 0 ∧ z.nr = 0)

/-- The invariant of the core holds at reset. -/
def Obligations.ResetMeetsInvariant : Prop := Inv State.reset

/-- Every step keeps the memory in its canonical form. -/
def Obligations.StepKeepsMemoryCanonical : Prop :=
  ∀ s t : State, Memory.wf s.mem → step s = .next t → Memory.wf t.mem

/-- Every step keeps the invariant of the core: canonical memory, STATUS consistent, OUTLEN within OBUF, a valid keyword
normalised with its index inside it, a valid schedule that of the current key, and a derived RSA key that is one. -/
def Obligations.StepKeepsInvariant : Prop := ∀ s t : State, Inv s → step s = .next t → Inv t

/-- R283, R284: an accepted command is executed after finitely many events, if none is a reset, on the state as it was at
acceptance but for OVR (and the model's own fields), and BUSY falls. -/
def Obligations.AcceptedCommandIsExecuted : Prop :=
  ∀ s : State, s.busy = true → (∀ i ∈ s.inputs, ∀ o, i ≠ .reset o) →
    ∃ k t u, k ≤ s.inputs.length + 1 ∧ Sys2Proof.core.run k s = .next t ∧ t.busy = false ∧ engineStep u = .next t ∧
      { u with ovr := s.ovr, inputs := s.inputs, resp := s.resp, draws := s.draws } = s

end
end

