-- ==== Sys2Proof/Laws/Memory.lean ====
section
/-! SUPPORT. The laws of the byte memory: what a read after a write gives, for every memory, and that every memory
operation keeps the canonical form. -/

namespace Sys2Proof.Machine

/-! ## Lists of cells -/

theorem find_filter_lt (m : List Host.Cell) (a x : Nat) :
    (m.filter fun c => decide (c.1 < a)).find? (fun c => c.1 == x) =
      if x < a then m.find? (fun c => c.1 == x) else none := by
  induction m with
  | nil => simp
  | cons c m ih =>
    by_cases h : c.1 < a <;> by_cases hx : c.1 = x <;> grind

theorem find_filter_ge (m : List Host.Cell) (a x : Nat) :
    (m.filter fun c => decide (a ≤ c.1)).find? (fun c => c.1 == x) =
      if a ≤ x then m.find? (fun c => c.1 == x) else none := by
  induction m with
  | nil => simp
  | cons c m ih =>
    by_cases h : a ≤ c.1 <;> by_cases hx : c.1 = x <;> grind

theorem mem_cellsFrom {a : Nat} {bs : List Byte} {c : Host.Cell} (h : c ∈ cellsFrom a bs) :
    a ≤ c.1 ∧ c.1 < a + bs.length ∧ c.2 ≠ unlistedByte := by
  induction bs generalizing a with
  | nil => simp [cellsFrom] at h
  | cons b bs ih =>
    by_cases hb : b = unlistedByte
    · rw [cellsFrom, if_pos hb] at h
      have := ih h
      exact ⟨by omega, by rw [List.length_cons]; omega, this.2.2⟩
    · rw [cellsFrom, if_neg hb, List.mem_cons] at h
      rcases h with rfl | h
      · simp [hb]
      · have := ih h
        exact ⟨by omega, by rw [List.length_cons]; omega, this.2.2⟩

theorem pairwise_cellsFrom (a : Nat) (bs : List Byte) :
    (cellsFrom a bs).Pairwise fun c d => c.1 < d.1 := by
  induction bs generalizing a with
  | nil => exact .nil
  | cons b bs ih =>
    by_cases hb : b = unlistedByte
    · rw [cellsFrom, if_pos hb]; exact ih _
    · rw [cellsFrom, if_neg hb]
      refine List.pairwise_cons.2 ⟨fun d hd => ?_, ih _⟩
      have := (mem_cellsFrom hd).1
      simp only
      omega

theorem find_cellsFrom (a x : Nat) (bs : List Byte) :
    (cellsFrom a bs).find? (fun c => c.1 == x) =
      if a ≤ x ∧ x < a + bs.length ∧ bs.getD (x - a) 0 ≠ unlistedByte then some (x, bs.getD (x - a) 0)
      else none := by
  induction bs generalizing a with
  | nil =>
    have : ¬ (a ≤ x ∧ x < a) := by omega
    simp only [cellsFrom, List.find?_nil, List.length_nil, Nat.add_zero]
    rw [if_neg (by omega)]
  | cons b bs ih =>
    by_cases hxa : x = a
    · subst hxa
      by_cases hb : b = unlistedByte
      · rw [cellsFrom, if_pos hb, ih, if_neg (by omega)]
        simp [hb]
      · rw [cellsFrom, if_neg hb]
        simp [hb]
    · have hstep : (cellsFrom a (b :: bs)).find? (fun c => c.1 == x) =
          (cellsFrom (a + 1) bs).find? (fun c => c.1 == x) := by
        by_cases hb : b = unlistedByte
        · rw [cellsFrom, if_pos hb]
        · rw [cellsFrom, if_neg hb, List.find?_cons_of_neg]
          simpa using fun h : a = x => hxa h.symm
      rw [hstep, ih]
      by_cases hlt : a < x
      · have hk : x - a = (x - (a + 1)) + 1 := by omega
        rw [hk, List.getD_cons_succ]
        simp only [List.length_cons]
        congr 1
        simp only [ne_eq, eq_iff_iff]
        constructor <;> rintro ⟨h1, h2, h3⟩ <;> exact ⟨by omega, by omega, h3⟩
      · rw [if_neg (by omega), if_neg (by omega)]

/-! ## Reading after writing -/

/-- What a byte reads after a write: the stored byte inside the stored range, what it was outside. -/
theorem readByte_writeBytes (m : List Host.Cell) (a x : Nat) (bs : List Byte) :
    readByte (writeBytes m a bs) x =
      if a ≤ x ∧ x < a + bs.length then bs.getD (x - a) 0 else readByte m x := by
  unfold readByte writeBytes
  rw [List.find?_append, List.find?_append, find_filter_lt, find_filter_ge, find_cellsFrom]
  by_cases h1 : x < a
  · rw [if_pos h1, if_neg (by omega), if_neg (by omega), if_neg (by omega)]
    simp
  · by_cases h2 : x < a + bs.length
    · rw [if_neg h1, if_neg (by omega : ¬ a + bs.length ≤ x), if_pos (⟨by omega, h2⟩ : a ≤ x ∧ x < a + bs.length)]
      by_cases h3 : bs.getD (x - a) 0 = unlistedByte
      · rw [if_neg (fun h => h.2.2 h3), h3]
        simp
      · rw [if_pos ⟨by omega, h2, h3⟩]
        simp
    · rw [if_neg h1, if_pos (by omega : a + bs.length ≤ x), if_neg (fun h => h2 h.2.1), if_neg (fun h => h2 h.2)]
      simp

theorem readByte_writeBytes_outside {m : List Host.Cell} {a x : Nat} {bs : List Byte}
    (h : x < a ∨ a + bs.length ≤ x) : readByte (writeBytes m a bs) x = readByte m x := by
  rw [readByte_writeBytes, if_neg (by omega)]

theorem readByte_writeBytes_inside {m : List Host.Cell} {a i : Nat} {bs : List Byte} (h : i < bs.length) :
    readByte (writeBytes m a bs) (a + i) = bs.getD i 0 := by
  rw [readByte_writeBytes, if_pos (by omega), Nat.add_sub_cancel_left]

@[simp] theorem length_readBytes (m : List Host.Cell) (a n : Nat) : (readBytes m a n).length = n := by
  simp [readBytes]

theorem getD_readBytes {m : List Host.Cell} {a n i : Nat} (h : i < n) :
    (readBytes m a n).getD i 0 = readByte m (a + i) := by
  simp [readBytes, List.getD, h]

/-- Reading back the byte string just stored. -/
theorem readBytes_writeBytes_same (m : List Host.Cell) (a : Nat) (bs : List Byte) :
    readBytes (writeBytes m a bs) a bs.length = bs := by
  refine List.ext_getElem (by simp) fun i h1 h2 => ?_
  have h : i < bs.length := h2
  have := readByte_writeBytes_inside (m := m) (a := a) h
  simp only [readBytes, List.getElem_map, List.getElem_range]
  rw [this]
  simp [List.getD, h]

/-- Reading a range that a write does not touch. -/
theorem readBytes_writeBytes_disjoint {m : List Host.Cell} {a b n : Nat} {bs : List Byte}
    (h : b + n ≤ a ∨ a + bs.length ≤ b) : readBytes (writeBytes m a bs) b n = readBytes m b n := by
  refine List.map_congr_left fun i hi => ?_
  have := List.mem_range.1 hi
  exact readByte_writeBytes_outside (by omega)

/-! ## The canonical form -/

theorem wf_nil : Memory.wf [] := ⟨.nil, by simp⟩

/-- A write whose bytes all lie inside arrays keeps the canonical form. -/
theorem wf_writeBytes {m : List Host.Cell} (hm : Memory.wf m) {a : Nat} {bs : List Byte}
    (ha : ∀ x, a ≤ x → x < a + bs.length → (arrAt x).isSome = true) : Memory.wf (writeBytes m a bs) := by
  refine ⟨?_, ?_⟩
  · unfold writeBytes
    refine List.pairwise_append.2 ⟨List.pairwise_append.2 ⟨hm.1.filter _, pairwise_cellsFrom _ _, ?_⟩, hm.1.filter _, ?_⟩
    · intro c hc d hd
      have := (mem_cellsFrom hd).1
      have := of_decide_eq_true (List.mem_filter.1 hc).2
      omega
    · intro c hc d hd
      have hd := of_decide_eq_true (List.mem_filter.1 hd).2
      rcases List.mem_append.1 hc with hc | hc
      · have := of_decide_eq_true (List.mem_filter.1 hc).2
        omega
      · have := (mem_cellsFrom hc).2.1
        omega
  · intro c hc
    unfold writeBytes at hc
    rcases List.mem_append.1 hc with hc | hc
    · rcases List.mem_append.1 hc with hc | hc
      · exact hm.2 c (List.mem_filter.1 hc).1
      · have := mem_cellsFrom hc
        exact ⟨this.2.2, ha _ this.1 this.2.1⟩
    · exact hm.2 c (List.mem_filter.1 hc).1

/-- Every offset of an array lies in an array. -/
theorem arrAt_isSome {b : ByteArr} {x : Nat} (h1 : b.base ≤ x) (h2 : x < b.base + b.size) :
    (arrAt x).isSome = true := by
  rw [arrAt, List.find?_isSome]
  exact ⟨b, by cases b <;> simp [byteArrs], by simp [ByteArr.holds, h1, h2]⟩

/-- The offsets of an array belong to that array: arrays do not overlap. -/
theorem arrAt_of_holds {b : ByteArr} {x : Nat} (h1 : b.base ≤ x) (h2 : x < b.base + b.size) : arrAt x = some b := by
  unfold arrAt byteArrs
  cases b <;>
    simp only [ByteArr.base, ByteArr.size, Config.vkeyBytes, Config.aesKeyBytes, Config.rkBytes, Config.bufBytes] at h1 h2 <;>
    simp only [List.find?_cons, ByteArr.holds, ByteArr.base, ByteArr.size, Config.vkeyBytes, Config.aesKeyBytes,
      Config.rkBytes, Config.bufBytes] <;>
    grind

/-- Where `arrAt` finds an array, the offset is inside it. -/
theorem holds_of_arrAt {b : ByteArr} {x : Nat} (h : arrAt x = some b) : b.base ≤ x ∧ x < b.base + b.size :=
  of_decide_eq_true (List.find?_some (p := fun c => ByteArr.holds c x) h)

/-- A byte string stored at the start of an array, no longer than it, keeps the canonical form. -/
theorem wf_putArr {b : ByteArr} {bs : List Byte} {s : State} (hm : Memory.wf s.mem) (h : bs.length ≤ b.size) :
    Memory.wf (putArr b bs s).mem :=
  wf_writeBytes hm fun _ h1 h2 => arrAt_isSome h1 (by omega)

theorem ramOffsets_isArr {x : Nat} (h : x ∈ ramOffsets) : (arrAt x).isSome = true := by
  simp only [ramOffsets, List.mem_append, List.mem_range'_1] at h
  rcases h with (h | h) | h
  · exact arrAt_isSome (b := .rk) h.1 h.2
  · exact arrAt_isSome (b := .ibuf) h.1 h.2
  · exact arrAt_isSome (b := .obuf) h.1 h.2

theorem ramOffsets_sorted : ramOffsets.Pairwise (· < ·) := by
  unfold ramOffsets
  refine List.pairwise_append.2 ⟨List.pairwise_append.2 ⟨List.pairwise_lt_range', List.pairwise_lt_range', ?_⟩,
    List.pairwise_lt_range', ?_⟩ <;>
    intro a ha b hb <;>
    simp only [List.mem_append, List.mem_range'_1, ByteArr.base, ByteArr.size, Config.rkBytes, Config.bufBytes] at ha hb <;>
    omega

/-- Memory after reset is canonical, whatever the RAMs hold. -/
theorem wf_powerOnMemory (n : Nat) : Memory.wf (powerOnMemory n) := by
  refine ⟨?_, ?_⟩
  · exact List.Pairwise.filter _ (List.pairwise_map.2 (ramOffsets_sorted.imp fun h => h))
  · intro c hc
    have hc := List.mem_filter.1 hc
    obtain ⟨x, hx, rfl⟩ := List.mem_map.1 hc.1
    exact ⟨of_decide_eq_true hc.2, ramOffsets_isArr hx⟩

theorem find_map_filter (f : Nat → Byte) (l : List Nat) (x : Nat) :
    ((l.map fun o => (o, f o)).filter fun c => decide (c.2 ≠ unlistedByte)).find? (fun c => c.1 == x) =
      if x ∈ l ∧ f x ≠ unlistedByte then some (x, f x) else none := by
  induction l with
  | nil => simp
  | cons o l ih =>
    rw [List.map_cons, List.filter_cons]
    by_cases ho : o = x
    · subst ho
      by_cases hf : f o = unlistedByte
      · rw [if_neg (by simpa using hf), ih, if_neg (fun h => h.2 hf), if_neg (fun h => h.2 hf)]
      · rw [if_pos (by simpa using hf), List.find?_cons_of_pos (by simp), if_pos ⟨by simp, hf⟩]
    · have hmem : x ∈ o :: l ↔ x ∈ l := by simp [Ne.symm ho]
      by_cases hf : f o = unlistedByte
      · rw [if_neg (by simpa using hf), ih]; simp only [hmem]
      · rw [if_pos (by simpa using hf), List.find?_cons_of_neg (by simpa using ho), ih]; simp only [hmem]

/-- A RAM byte after reset is the free value, every other byte 0x00 (U3). -/
theorem readByte_powerOnMemory (n x : Nat) :
    readByte (powerOnMemory n) x = if x ∈ ramOffsets then Config.powerOnByte n x else unlistedByte := by
  unfold readByte powerOnMemory
  rw [find_map_filter]
  by_cases h : x ∈ ramOffsets <;> by_cases hb : Config.powerOnByte n x = unlistedByte <;> simp [h, hb]

end Sys2Proof.Machine
end

