-- ==== Sys2Proof/Laws/State.lean ====
section
/-! SUPPORT. One lemma per field per update of the state, true by rfl. -/

namespace Sys2Proof.Machine

/-! ## accept -/

@[simp] theorem accept_busy (v : Word) (s : State) : (accept v s).busy = true := rfl
@[simp] theorem accept_err (v : Word) (s : State) : (accept v s).err = false := rfl
@[simp] theorem accept_ovr (v : Word) (s : State) : (accept v s).ovr = s.ovr := rfl
@[simp] theorem accept_kvalid (v : Word) (s : State) : (accept v s).kvalid = s.kvalid := rfl
@[simp] theorem accept_vkvalid (v : Word) (s : State) : (accept v s).vkvalid = s.vkvalid := rfl
@[simp] theorem accept_errCode (v : Word) (s : State) : (accept v s).errCode = 0x00 := rfl
@[simp] theorem accept_pending (v : Word) (s : State) : (accept v s).pending = v := rfl
@[simp] theorem accept_inlen (v : Word) (s : State) : (accept v s).inlen = s.inlen := rfl
@[simp] theorem accept_outlen (v : Word) (s : State) : (accept v s).outlen = s.outlen := rfl
@[simp] theorem accept_gfA (v : Word) (s : State) : (accept v s).gfA = s.gfA := rfl
@[simp] theorem accept_gfB (v : Word) (s : State) : (accept v s).gfB = s.gfB := rfl
@[simp] theorem accept_gfP (v : Word) (s : State) : (accept v s).gfP = s.gfP := rfl
@[simp] theorem accept_shift (v : Word) (s : State) : (accept v s).shift = s.shift := rfl
@[simp] theorem accept_vklen (v : Word) (s : State) : (accept v s).vklen = s.vklen := rfl
@[simp] theorem accept_vkidx (v : Word) (s : State) : (accept v s).vkidx = s.vkidx := rfl
@[simp] theorem accept_h0 (v : Word) (s : State) : (accept v s).h0 = s.h0 := rfl
@[simp] theorem accept_h1 (v : Word) (s : State) : (accept v s).h1 = s.h1 := rfl
@[simp] theorem accept_h2 (v : Word) (s : State) : (accept v s).h2 = s.h2 := rfl
@[simp] theorem accept_h3 (v : Word) (s : State) : (accept v s).h3 = s.h3 := rfl
@[simp] theorem accept_mlen (v : Word) (s : State) : (accept v s).mlen = s.mlen := rfl
@[simp] theorem accept_p (v : Word) (s : State) : (accept v s).p = s.p := rfl
@[simp] theorem accept_q (v : Word) (s : State) : (accept v s).q = s.q := rfl
@[simp] theorem accept_n (v : Word) (s : State) : (accept v s).n = s.n := rfl
@[simp] theorem accept_phi (v : Word) (s : State) : (accept v s).phi = s.phi := rfl
@[simp] theorem accept_d (v : Word) (s : State) : (accept v s).d = s.d := rfl
@[simp] theorem accept_x (v : Word) (s : State) : (accept v s).x = s.x := rfl
@[simp] theorem accept_y (v : Word) (s : State) : (accept v s).y = s.y := rfl
@[simp] theorem accept_m (v : Word) (s : State) : (accept v s).m = s.m := rfl
@[simp] theorem accept_r (v : Word) (s : State) : (accept v s).r = s.r := rfl
@[simp] theorem accept_keylen (v : Word) (s : State) : (accept v s).keylen = s.keylen := rfl
@[simp] theorem accept_nr (v : Word) (s : State) : (accept v s).nr = s.nr := rfl
@[simp] theorem accept_mem (v : Word) (s : State) : (accept v s).mem = s.mem := rfl
@[simp] theorem accept_inputs (v : Word) (s : State) : (accept v s).inputs = s.inputs := rfl
@[simp] theorem accept_resp (v : Word) (s : State) : (accept v s).resp = s.resp := rfl
@[simp] theorem accept_draws (v : Word) (s : State) : (accept v s).draws = s.draws := rfl

/-! ## complete -/

@[simp] theorem complete_busy (s : State) : (complete s).busy = false := rfl
@[simp] theorem complete_err (s : State) : (complete s).err = s.err := rfl
@[simp] theorem complete_ovr (s : State) : (complete s).ovr = s.ovr := rfl
@[simp] theorem complete_kvalid (s : State) : (complete s).kvalid = s.kvalid := rfl
@[simp] theorem complete_vkvalid (s : State) : (complete s).vkvalid = s.vkvalid := rfl
@[simp] theorem complete_errCode (s : State) : (complete s).errCode = s.errCode := rfl
@[simp] theorem complete_pending (s : State) : (complete s).pending = s.pending := rfl
@[simp] theorem complete_inlen (s : State) : (complete s).inlen = s.inlen := rfl
@[simp] theorem complete_outlen (s : State) : (complete s).outlen = s.outlen := rfl
@[simp] theorem complete_gfA (s : State) : (complete s).gfA = s.gfA := rfl
@[simp] theorem complete_gfB (s : State) : (complete s).gfB = s.gfB := rfl
@[simp] theorem complete_gfP (s : State) : (complete s).gfP = s.gfP := rfl
@[simp] theorem complete_shift (s : State) : (complete s).shift = s.shift := rfl
@[simp] theorem complete_vklen (s : State) : (complete s).vklen = s.vklen := rfl
@[simp] theorem complete_vkidx (s : State) : (complete s).vkidx = s.vkidx := rfl
@[simp] theorem complete_h0 (s : State) : (complete s).h0 = s.h0 := rfl
@[simp] theorem complete_h1 (s : State) : (complete s).h1 = s.h1 := rfl
@[simp] theorem complete_h2 (s : State) : (complete s).h2 = s.h2 := rfl
@[simp] theorem complete_h3 (s : State) : (complete s).h3 = s.h3 := rfl
@[simp] theorem complete_mlen (s : State) : (complete s).mlen = s.mlen := rfl
@[simp] theorem complete_p (s : State) : (complete s).p = s.p := rfl
@[simp] theorem complete_q (s : State) : (complete s).q = s.q := rfl
@[simp] theorem complete_n (s : State) : (complete s).n = s.n := rfl
@[simp] theorem complete_phi (s : State) : (complete s).phi = s.phi := rfl
@[simp] theorem complete_d (s : State) : (complete s).d = s.d := rfl
@[simp] theorem complete_x (s : State) : (complete s).x = s.x := rfl
@[simp] theorem complete_y (s : State) : (complete s).y = s.y := rfl
@[simp] theorem complete_m (s : State) : (complete s).m = s.m := rfl
@[simp] theorem complete_r (s : State) : (complete s).r = s.r := rfl
@[simp] theorem complete_keylen (s : State) : (complete s).keylen = s.keylen := rfl
@[simp] theorem complete_nr (s : State) : (complete s).nr = s.nr := rfl
@[simp] theorem complete_mem (s : State) : (complete s).mem = s.mem := rfl
@[simp] theorem complete_inputs (s : State) : (complete s).inputs = s.inputs := rfl
@[simp] theorem complete_resp (s : State) : (complete s).resp = s.resp := rfl
@[simp] theorem complete_draws (s : State) : (complete s).draws = s.draws := rfl

/-! ## fail -/

@[simp] theorem fail_busy (c : ErrorCode) (s : State) : (fail c s).busy = false := rfl
@[simp] theorem fail_err (c : ErrorCode) (s : State) : (fail c s).err = true := rfl
@[simp] theorem fail_ovr (c : ErrorCode) (s : State) : (fail c s).ovr = s.ovr := rfl
@[simp] theorem fail_kvalid (c : ErrorCode) (s : State) : (fail c s).kvalid = s.kvalid := rfl
@[simp] theorem fail_vkvalid (c : ErrorCode) (s : State) : (fail c s).vkvalid = s.vkvalid := rfl
@[simp] theorem fail_errCode (c : ErrorCode) (s : State) : (fail c s).errCode = c.code := rfl
@[simp] theorem fail_pending (c : ErrorCode) (s : State) : (fail c s).pending = s.pending := rfl
@[simp] theorem fail_inlen (c : ErrorCode) (s : State) : (fail c s).inlen = s.inlen := rfl
@[simp] theorem fail_outlen (c : ErrorCode) (s : State) : (fail c s).outlen = s.outlen := rfl
@[simp] theorem fail_gfA (c : ErrorCode) (s : State) : (fail c s).gfA = s.gfA := rfl
@[simp] theorem fail_gfB (c : ErrorCode) (s : State) : (fail c s).gfB = s.gfB := rfl
@[simp] theorem fail_gfP (c : ErrorCode) (s : State) : (fail c s).gfP = s.gfP := rfl
@[simp] theorem fail_shift (c : ErrorCode) (s : State) : (fail c s).shift = s.shift := rfl
@[simp] theorem fail_vklen (c : ErrorCode) (s : State) : (fail c s).vklen = s.vklen := rfl
@[simp] theorem fail_vkidx (c : ErrorCode) (s : State) : (fail c s).vkidx = s.vkidx := rfl
@[simp] theorem fail_h0 (c : ErrorCode) (s : State) : (fail c s).h0 = s.h0 := rfl
@[simp] theorem fail_h1 (c : ErrorCode) (s : State) : (fail c s).h1 = s.h1 := rfl
@[simp] theorem fail_h2 (c : ErrorCode) (s : State) : (fail c s).h2 = s.h2 := rfl
@[simp] theorem fail_h3 (c : ErrorCode) (s : State) : (fail c s).h3 = s.h3 := rfl
@[simp] theorem fail_mlen (c : ErrorCode) (s : State) : (fail c s).mlen = s.mlen := rfl
@[simp] theorem fail_p (c : ErrorCode) (s : State) : (fail c s).p = s.p := rfl
@[simp] theorem fail_q (c : ErrorCode) (s : State) : (fail c s).q = s.q := rfl
@[simp] theorem fail_n (c : ErrorCode) (s : State) : (fail c s).n = s.n := rfl
@[simp] theorem fail_phi (c : ErrorCode) (s : State) : (fail c s).phi = s.phi := rfl
@[simp] theorem fail_d (c : ErrorCode) (s : State) : (fail c s).d = s.d := rfl
@[simp] theorem fail_x (c : ErrorCode) (s : State) : (fail c s).x = s.x := rfl
@[simp] theorem fail_y (c : ErrorCode) (s : State) : (fail c s).y = s.y := rfl
@[simp] theorem fail_m (c : ErrorCode) (s : State) : (fail c s).m = s.m := rfl
@[simp] theorem fail_r (c : ErrorCode) (s : State) : (fail c s).r = s.r := rfl
@[simp] theorem fail_keylen (c : ErrorCode) (s : State) : (fail c s).keylen = s.keylen := rfl
@[simp] theorem fail_nr (c : ErrorCode) (s : State) : (fail c s).nr = s.nr := rfl
@[simp] theorem fail_mem (c : ErrorCode) (s : State) : (fail c s).mem = s.mem := rfl
@[simp] theorem fail_inputs (c : ErrorCode) (s : State) : (fail c s).inputs = s.inputs := rfl
@[simp] theorem fail_resp (c : ErrorCode) (s : State) : (fail c s).resp = s.resp := rfl
@[simp] theorem fail_draws (c : ErrorCode) (s : State) : (fail c s).draws = s.draws := rfl

/-! ## clearKvalid -/

@[simp] theorem clearKvalid_busy (s : State) : (clearKvalid s).busy = s.busy := rfl
@[simp] theorem clearKvalid_err (s : State) : (clearKvalid s).err = s.err := rfl
@[simp] theorem clearKvalid_ovr (s : State) : (clearKvalid s).ovr = s.ovr := rfl
@[simp] theorem clearKvalid_kvalid (s : State) : (clearKvalid s).kvalid = false := rfl
@[simp] theorem clearKvalid_vkvalid (s : State) : (clearKvalid s).vkvalid = s.vkvalid := rfl
@[simp] theorem clearKvalid_errCode (s : State) : (clearKvalid s).errCode = s.errCode := rfl
@[simp] theorem clearKvalid_pending (s : State) : (clearKvalid s).pending = s.pending := rfl
@[simp] theorem clearKvalid_inlen (s : State) : (clearKvalid s).inlen = s.inlen := rfl
@[simp] theorem clearKvalid_outlen (s : State) : (clearKvalid s).outlen = s.outlen := rfl
@[simp] theorem clearKvalid_gfA (s : State) : (clearKvalid s).gfA = s.gfA := rfl
@[simp] theorem clearKvalid_gfB (s : State) : (clearKvalid s).gfB = s.gfB := rfl
@[simp] theorem clearKvalid_gfP (s : State) : (clearKvalid s).gfP = s.gfP := rfl
@[simp] theorem clearKvalid_shift (s : State) : (clearKvalid s).shift = s.shift := rfl
@[simp] theorem clearKvalid_vklen (s : State) : (clearKvalid s).vklen = s.vklen := rfl
@[simp] theorem clearKvalid_vkidx (s : State) : (clearKvalid s).vkidx = s.vkidx := rfl
@[simp] theorem clearKvalid_h0 (s : State) : (clearKvalid s).h0 = s.h0 := rfl
@[simp] theorem clearKvalid_h1 (s : State) : (clearKvalid s).h1 = s.h1 := rfl
@[simp] theorem clearKvalid_h2 (s : State) : (clearKvalid s).h2 = s.h2 := rfl
@[simp] theorem clearKvalid_h3 (s : State) : (clearKvalid s).h3 = s.h3 := rfl
@[simp] theorem clearKvalid_mlen (s : State) : (clearKvalid s).mlen = s.mlen := rfl
@[simp] theorem clearKvalid_p (s : State) : (clearKvalid s).p = s.p := rfl
@[simp] theorem clearKvalid_q (s : State) : (clearKvalid s).q = s.q := rfl
@[simp] theorem clearKvalid_n (s : State) : (clearKvalid s).n = s.n := rfl
@[simp] theorem clearKvalid_phi (s : State) : (clearKvalid s).phi = s.phi := rfl
@[simp] theorem clearKvalid_d (s : State) : (clearKvalid s).d = s.d := rfl
@[simp] theorem clearKvalid_x (s : State) : (clearKvalid s).x = s.x := rfl
@[simp] theorem clearKvalid_y (s : State) : (clearKvalid s).y = s.y := rfl
@[simp] theorem clearKvalid_m (s : State) : (clearKvalid s).m = s.m := rfl
@[simp] theorem clearKvalid_r (s : State) : (clearKvalid s).r = s.r := rfl
@[simp] theorem clearKvalid_keylen (s : State) : (clearKvalid s).keylen = s.keylen := rfl
@[simp] theorem clearKvalid_nr (s : State) : (clearKvalid s).nr = s.nr := rfl
@[simp] theorem clearKvalid_mem (s : State) : (clearKvalid s).mem = s.mem := rfl
@[simp] theorem clearKvalid_inputs (s : State) : (clearKvalid s).inputs = s.inputs := rfl
@[simp] theorem clearKvalid_resp (s : State) : (clearKvalid s).resp = s.resp := rfl
@[simp] theorem clearKvalid_draws (s : State) : (clearKvalid s).draws = s.draws := rfl

/-! ## clearVkvalid -/

@[simp] theorem clearVkvalid_busy (s : State) : (clearVkvalid s).busy = s.busy := rfl
@[simp] theorem clearVkvalid_err (s : State) : (clearVkvalid s).err = s.err := rfl
@[simp] theorem clearVkvalid_ovr (s : State) : (clearVkvalid s).ovr = s.ovr := rfl
@[simp] theorem clearVkvalid_kvalid (s : State) : (clearVkvalid s).kvalid = s.kvalid := rfl
@[simp] theorem clearVkvalid_vkvalid (s : State) : (clearVkvalid s).vkvalid = false := rfl
@[simp] theorem clearVkvalid_errCode (s : State) : (clearVkvalid s).errCode = s.errCode := rfl
@[simp] theorem clearVkvalid_pending (s : State) : (clearVkvalid s).pending = s.pending := rfl
@[simp] theorem clearVkvalid_inlen (s : State) : (clearVkvalid s).inlen = s.inlen := rfl
@[simp] theorem clearVkvalid_outlen (s : State) : (clearVkvalid s).outlen = s.outlen := rfl
@[simp] theorem clearVkvalid_gfA (s : State) : (clearVkvalid s).gfA = s.gfA := rfl
@[simp] theorem clearVkvalid_gfB (s : State) : (clearVkvalid s).gfB = s.gfB := rfl
@[simp] theorem clearVkvalid_gfP (s : State) : (clearVkvalid s).gfP = s.gfP := rfl
@[simp] theorem clearVkvalid_shift (s : State) : (clearVkvalid s).shift = s.shift := rfl
@[simp] theorem clearVkvalid_vklen (s : State) : (clearVkvalid s).vklen = s.vklen := rfl
@[simp] theorem clearVkvalid_vkidx (s : State) : (clearVkvalid s).vkidx = s.vkidx := rfl
@[simp] theorem clearVkvalid_h0 (s : State) : (clearVkvalid s).h0 = s.h0 := rfl
@[simp] theorem clearVkvalid_h1 (s : State) : (clearVkvalid s).h1 = s.h1 := rfl
@[simp] theorem clearVkvalid_h2 (s : State) : (clearVkvalid s).h2 = s.h2 := rfl
@[simp] theorem clearVkvalid_h3 (s : State) : (clearVkvalid s).h3 = s.h3 := rfl
@[simp] theorem clearVkvalid_mlen (s : State) : (clearVkvalid s).mlen = s.mlen := rfl
@[simp] theorem clearVkvalid_p (s : State) : (clearVkvalid s).p = s.p := rfl
@[simp] theorem clearVkvalid_q (s : State) : (clearVkvalid s).q = s.q := rfl
@[simp] theorem clearVkvalid_n (s : State) : (clearVkvalid s).n = s.n := rfl
@[simp] theorem clearVkvalid_phi (s : State) : (clearVkvalid s).phi = s.phi := rfl
@[simp] theorem clearVkvalid_d (s : State) : (clearVkvalid s).d = s.d := rfl
@[simp] theorem clearVkvalid_x (s : State) : (clearVkvalid s).x = s.x := rfl
@[simp] theorem clearVkvalid_y (s : State) : (clearVkvalid s).y = s.y := rfl
@[simp] theorem clearVkvalid_m (s : State) : (clearVkvalid s).m = s.m := rfl
@[simp] theorem clearVkvalid_r (s : State) : (clearVkvalid s).r = s.r := rfl
@[simp] theorem clearVkvalid_keylen (s : State) : (clearVkvalid s).keylen = s.keylen := rfl
@[simp] theorem clearVkvalid_nr (s : State) : (clearVkvalid s).nr = s.nr := rfl
@[simp] theorem clearVkvalid_mem (s : State) : (clearVkvalid s).mem = s.mem := rfl
@[simp] theorem clearVkvalid_inputs (s : State) : (clearVkvalid s).inputs = s.inputs := rfl
@[simp] theorem clearVkvalid_resp (s : State) : (clearVkvalid s).resp = s.resp := rfl
@[simp] theorem clearVkvalid_draws (s : State) : (clearVkvalid s).draws = s.draws := rfl

/-! ## setOvr -/

@[simp] theorem setOvr_busy (s : State) : (setOvr s).busy = s.busy := rfl
@[simp] theorem setOvr_err (s : State) : (setOvr s).err = s.err := rfl
@[simp] theorem setOvr_ovr (s : State) : (setOvr s).ovr = true := rfl
@[simp] theorem setOvr_kvalid (s : State) : (setOvr s).kvalid = s.kvalid := rfl
@[simp] theorem setOvr_vkvalid (s : State) : (setOvr s).vkvalid = s.vkvalid := rfl
@[simp] theorem setOvr_errCode (s : State) : (setOvr s).errCode = s.errCode := rfl
@[simp] theorem setOvr_pending (s : State) : (setOvr s).pending = s.pending := rfl
@[simp] theorem setOvr_inlen (s : State) : (setOvr s).inlen = s.inlen := rfl
@[simp] theorem setOvr_outlen (s : State) : (setOvr s).outlen = s.outlen := rfl
@[simp] theorem setOvr_gfA (s : State) : (setOvr s).gfA = s.gfA := rfl
@[simp] theorem setOvr_gfB (s : State) : (setOvr s).gfB = s.gfB := rfl
@[simp] theorem setOvr_gfP (s : State) : (setOvr s).gfP = s.gfP := rfl
@[simp] theorem setOvr_shift (s : State) : (setOvr s).shift = s.shift := rfl
@[simp] theorem setOvr_vklen (s : State) : (setOvr s).vklen = s.vklen := rfl
@[simp] theorem setOvr_vkidx (s : State) : (setOvr s).vkidx = s.vkidx := rfl
@[simp] theorem setOvr_h0 (s : State) : (setOvr s).h0 = s.h0 := rfl
@[simp] theorem setOvr_h1 (s : State) : (setOvr s).h1 = s.h1 := rfl
@[simp] theorem setOvr_h2 (s : State) : (setOvr s).h2 = s.h2 := rfl
@[simp] theorem setOvr_h3 (s : State) : (setOvr s).h3 = s.h3 := rfl
@[simp] theorem setOvr_mlen (s : State) : (setOvr s).mlen = s.mlen := rfl
@[simp] theorem setOvr_p (s : State) : (setOvr s).p = s.p := rfl
@[simp] theorem setOvr_q (s : State) : (setOvr s).q = s.q := rfl
@[simp] theorem setOvr_n (s : State) : (setOvr s).n = s.n := rfl
@[simp] theorem setOvr_phi (s : State) : (setOvr s).phi = s.phi := rfl
@[simp] theorem setOvr_d (s : State) : (setOvr s).d = s.d := rfl
@[simp] theorem setOvr_x (s : State) : (setOvr s).x = s.x := rfl
@[simp] theorem setOvr_y (s : State) : (setOvr s).y = s.y := rfl
@[simp] theorem setOvr_m (s : State) : (setOvr s).m = s.m := rfl
@[simp] theorem setOvr_r (s : State) : (setOvr s).r = s.r := rfl
@[simp] theorem setOvr_keylen (s : State) : (setOvr s).keylen = s.keylen := rfl
@[simp] theorem setOvr_nr (s : State) : (setOvr s).nr = s.nr := rfl
@[simp] theorem setOvr_mem (s : State) : (setOvr s).mem = s.mem := rfl
@[simp] theorem setOvr_inputs (s : State) : (setOvr s).inputs = s.inputs := rfl
@[simp] theorem setOvr_resp (s : State) : (setOvr s).resp = s.resp := rfl
@[simp] theorem setOvr_draws (s : State) : (setOvr s).draws = s.draws := rfl

/-! ## clearOvr -/

@[simp] theorem clearOvr_busy (s : State) : (clearOvr s).busy = s.busy := rfl
@[simp] theorem clearOvr_err (s : State) : (clearOvr s).err = s.err := rfl
@[simp] theorem clearOvr_ovr (s : State) : (clearOvr s).ovr = false := rfl
@[simp] theorem clearOvr_kvalid (s : State) : (clearOvr s).kvalid = s.kvalid := rfl
@[simp] theorem clearOvr_vkvalid (s : State) : (clearOvr s).vkvalid = s.vkvalid := rfl
@[simp] theorem clearOvr_errCode (s : State) : (clearOvr s).errCode = s.errCode := rfl
@[simp] theorem clearOvr_pending (s : State) : (clearOvr s).pending = s.pending := rfl
@[simp] theorem clearOvr_inlen (s : State) : (clearOvr s).inlen = s.inlen := rfl
@[simp] theorem clearOvr_outlen (s : State) : (clearOvr s).outlen = s.outlen := rfl
@[simp] theorem clearOvr_gfA (s : State) : (clearOvr s).gfA = s.gfA := rfl
@[simp] theorem clearOvr_gfB (s : State) : (clearOvr s).gfB = s.gfB := rfl
@[simp] theorem clearOvr_gfP (s : State) : (clearOvr s).gfP = s.gfP := rfl
@[simp] theorem clearOvr_shift (s : State) : (clearOvr s).shift = s.shift := rfl
@[simp] theorem clearOvr_vklen (s : State) : (clearOvr s).vklen = s.vklen := rfl
@[simp] theorem clearOvr_vkidx (s : State) : (clearOvr s).vkidx = s.vkidx := rfl
@[simp] theorem clearOvr_h0 (s : State) : (clearOvr s).h0 = s.h0 := rfl
@[simp] theorem clearOvr_h1 (s : State) : (clearOvr s).h1 = s.h1 := rfl
@[simp] theorem clearOvr_h2 (s : State) : (clearOvr s).h2 = s.h2 := rfl
@[simp] theorem clearOvr_h3 (s : State) : (clearOvr s).h3 = s.h3 := rfl
@[simp] theorem clearOvr_mlen (s : State) : (clearOvr s).mlen = s.mlen := rfl
@[simp] theorem clearOvr_p (s : State) : (clearOvr s).p = s.p := rfl
@[simp] theorem clearOvr_q (s : State) : (clearOvr s).q = s.q := rfl
@[simp] theorem clearOvr_n (s : State) : (clearOvr s).n = s.n := rfl
@[simp] theorem clearOvr_phi (s : State) : (clearOvr s).phi = s.phi := rfl
@[simp] theorem clearOvr_d (s : State) : (clearOvr s).d = s.d := rfl
@[simp] theorem clearOvr_x (s : State) : (clearOvr s).x = s.x := rfl
@[simp] theorem clearOvr_y (s : State) : (clearOvr s).y = s.y := rfl
@[simp] theorem clearOvr_m (s : State) : (clearOvr s).m = s.m := rfl
@[simp] theorem clearOvr_r (s : State) : (clearOvr s).r = s.r := rfl
@[simp] theorem clearOvr_keylen (s : State) : (clearOvr s).keylen = s.keylen := rfl
@[simp] theorem clearOvr_nr (s : State) : (clearOvr s).nr = s.nr := rfl
@[simp] theorem clearOvr_mem (s : State) : (clearOvr s).mem = s.mem := rfl
@[simp] theorem clearOvr_inputs (s : State) : (clearOvr s).inputs = s.inputs := rfl
@[simp] theorem clearOvr_resp (s : State) : (clearOvr s).resp = s.resp := rfl
@[simp] theorem clearOvr_draws (s : State) : (clearOvr s).draws = s.draws := rfl

/-! ## putArr -/

@[simp] theorem putArr_busy (b : ByteArr) (bs : List Byte) (s : State) : (putArr b bs s).busy = s.busy := rfl
@[simp] theorem putArr_err (b : ByteArr) (bs : List Byte) (s : State) : (putArr b bs s).err = s.err := rfl
@[simp] theorem putArr_ovr (b : ByteArr) (bs : List Byte) (s : State) : (putArr b bs s).ovr = s.ovr := rfl
@[simp] theorem putArr_kvalid (b : ByteArr) (bs : List Byte) (s : State) : (putArr b bs s).kvalid = s.kvalid := rfl
@[simp] theorem putArr_vkvalid (b : ByteArr) (bs : List Byte) (s : State) : (putArr b bs s).vkvalid = s.vkvalid := rfl
@[simp] theorem putArr_errCode (b : ByteArr) (bs : List Byte) (s : State) : (putArr b bs s).errCode = s.errCode := rfl
@[simp] theorem putArr_pending (b : ByteArr) (bs : List Byte) (s : State) : (putArr b bs s).pending = s.pending := rfl
@[simp] theorem putArr_inlen (b : ByteArr) (bs : List Byte) (s : State) : (putArr b bs s).inlen = s.inlen := rfl
@[simp] theorem putArr_outlen (b : ByteArr) (bs : List Byte) (s : State) : (putArr b bs s).outlen = s.outlen := rfl
@[simp] theorem putArr_gfA (b : ByteArr) (bs : List Byte) (s : State) : (putArr b bs s).gfA = s.gfA := rfl
@[simp] theorem putArr_gfB (b : ByteArr) (bs : List Byte) (s : State) : (putArr b bs s).gfB = s.gfB := rfl
@[simp] theorem putArr_gfP (b : ByteArr) (bs : List Byte) (s : State) : (putArr b bs s).gfP = s.gfP := rfl
@[simp] theorem putArr_shift (b : ByteArr) (bs : List Byte) (s : State) : (putArr b bs s).shift = s.shift := rfl
@[simp] theorem putArr_vklen (b : ByteArr) (bs : List Byte) (s : State) : (putArr b bs s).vklen = s.vklen := rfl
@[simp] theorem putArr_vkidx (b : ByteArr) (bs : List Byte) (s : State) : (putArr b bs s).vkidx = s.vkidx := rfl
@[simp] theorem putArr_h0 (b : ByteArr) (bs : List Byte) (s : State) : (putArr b bs s).h0 = s.h0 := rfl
@[simp] theorem putArr_h1 (b : ByteArr) (bs : List Byte) (s : State) : (putArr b bs s).h1 = s.h1 := rfl
@[simp] theorem putArr_h2 (b : ByteArr) (bs : List Byte) (s : State) : (putArr b bs s).h2 = s.h2 := rfl
@[simp] theorem putArr_h3 (b : ByteArr) (bs : List Byte) (s : State) : (putArr b bs s).h3 = s.h3 := rfl
@[simp] theorem putArr_mlen (b : ByteArr) (bs : List Byte) (s : State) : (putArr b bs s).mlen = s.mlen := rfl
@[simp] theorem putArr_p (b : ByteArr) (bs : List Byte) (s : State) : (putArr b bs s).p = s.p := rfl
@[simp] theorem putArr_q (b : ByteArr) (bs : List Byte) (s : State) : (putArr b bs s).q = s.q := rfl
@[simp] theorem putArr_n (b : ByteArr) (bs : List Byte) (s : State) : (putArr b bs s).n = s.n := rfl
@[simp] theorem putArr_phi (b : ByteArr) (bs : List Byte) (s : State) : (putArr b bs s).phi = s.phi := rfl
@[simp] theorem putArr_d (b : ByteArr) (bs : List Byte) (s : State) : (putArr b bs s).d = s.d := rfl
@[simp] theorem putArr_x (b : ByteArr) (bs : List Byte) (s : State) : (putArr b bs s).x = s.x := rfl
@[simp] theorem putArr_y (b : ByteArr) (bs : List Byte) (s : State) : (putArr b bs s).y = s.y := rfl
@[simp] theorem putArr_m (b : ByteArr) (bs : List Byte) (s : State) : (putArr b bs s).m = s.m := rfl
@[simp] theorem putArr_r (b : ByteArr) (bs : List Byte) (s : State) : (putArr b bs s).r = s.r := rfl
@[simp] theorem putArr_keylen (b : ByteArr) (bs : List Byte) (s : State) : (putArr b bs s).keylen = s.keylen := rfl
@[simp] theorem putArr_nr (b : ByteArr) (bs : List Byte) (s : State) : (putArr b bs s).nr = s.nr := rfl
@[simp] theorem putArr_mem (b : ByteArr) (bs : List Byte) (s : State) : (putArr b bs s).mem = writeBytes s.mem b.base bs := rfl
@[simp] theorem putArr_inputs (b : ByteArr) (bs : List Byte) (s : State) : (putArr b bs s).inputs = s.inputs := rfl
@[simp] theorem putArr_resp (b : ByteArr) (bs : List Byte) (s : State) : (putArr b bs s).resp = s.resp := rfl
@[simp] theorem putArr_draws (b : ByteArr) (bs : List Byte) (s : State) : (putArr b bs s).draws = s.draws := rfl

/-! ## putOutput -/

@[simp] theorem putOutput_busy (bs : List Byte) (s : State) : (putOutput bs s).busy = s.busy := rfl
@[simp] theorem putOutput_err (bs : List Byte) (s : State) : (putOutput bs s).err = s.err := rfl
@[simp] theorem putOutput_ovr (bs : List Byte) (s : State) : (putOutput bs s).ovr = s.ovr := rfl
@[simp] theorem putOutput_kvalid (bs : List Byte) (s : State) : (putOutput bs s).kvalid = s.kvalid := rfl
@[simp] theorem putOutput_vkvalid (bs : List Byte) (s : State) : (putOutput bs s).vkvalid = s.vkvalid := rfl
@[simp] theorem putOutput_errCode (bs : List Byte) (s : State) : (putOutput bs s).errCode = s.errCode := rfl
@[simp] theorem putOutput_pending (bs : List Byte) (s : State) : (putOutput bs s).pending = s.pending := rfl
@[simp] theorem putOutput_inlen (bs : List Byte) (s : State) : (putOutput bs s).inlen = s.inlen := rfl
@[simp] theorem putOutput_outlen (bs : List Byte) (s : State) : (putOutput bs s).outlen = BitVec.ofNat 13 bs.length := rfl
@[simp] theorem putOutput_gfA (bs : List Byte) (s : State) : (putOutput bs s).gfA = s.gfA := rfl
@[simp] theorem putOutput_gfB (bs : List Byte) (s : State) : (putOutput bs s).gfB = s.gfB := rfl
@[simp] theorem putOutput_gfP (bs : List Byte) (s : State) : (putOutput bs s).gfP = s.gfP := rfl
@[simp] theorem putOutput_shift (bs : List Byte) (s : State) : (putOutput bs s).shift = s.shift := rfl
@[simp] theorem putOutput_vklen (bs : List Byte) (s : State) : (putOutput bs s).vklen = s.vklen := rfl
@[simp] theorem putOutput_vkidx (bs : List Byte) (s : State) : (putOutput bs s).vkidx = s.vkidx := rfl
@[simp] theorem putOutput_h0 (bs : List Byte) (s : State) : (putOutput bs s).h0 = s.h0 := rfl
@[simp] theorem putOutput_h1 (bs : List Byte) (s : State) : (putOutput bs s).h1 = s.h1 := rfl
@[simp] theorem putOutput_h2 (bs : List Byte) (s : State) : (putOutput bs s).h2 = s.h2 := rfl
@[simp] theorem putOutput_h3 (bs : List Byte) (s : State) : (putOutput bs s).h3 = s.h3 := rfl
@[simp] theorem putOutput_mlen (bs : List Byte) (s : State) : (putOutput bs s).mlen = s.mlen := rfl
@[simp] theorem putOutput_p (bs : List Byte) (s : State) : (putOutput bs s).p = s.p := rfl
@[simp] theorem putOutput_q (bs : List Byte) (s : State) : (putOutput bs s).q = s.q := rfl
@[simp] theorem putOutput_n (bs : List Byte) (s : State) : (putOutput bs s).n = s.n := rfl
@[simp] theorem putOutput_phi (bs : List Byte) (s : State) : (putOutput bs s).phi = s.phi := rfl
@[simp] theorem putOutput_d (bs : List Byte) (s : State) : (putOutput bs s).d = s.d := rfl
@[simp] theorem putOutput_x (bs : List Byte) (s : State) : (putOutput bs s).x = s.x := rfl
@[simp] theorem putOutput_y (bs : List Byte) (s : State) : (putOutput bs s).y = s.y := rfl
@[simp] theorem putOutput_m (bs : List Byte) (s : State) : (putOutput bs s).m = s.m := rfl
@[simp] theorem putOutput_r (bs : List Byte) (s : State) : (putOutput bs s).r = s.r := rfl
@[simp] theorem putOutput_keylen (bs : List Byte) (s : State) : (putOutput bs s).keylen = s.keylen := rfl
@[simp] theorem putOutput_nr (bs : List Byte) (s : State) : (putOutput bs s).nr = s.nr := rfl
@[simp] theorem putOutput_mem (bs : List Byte) (s : State) : (putOutput bs s).mem = writeBytes s.mem ByteArr.obuf.base bs := rfl
@[simp] theorem putOutput_inputs (bs : List Byte) (s : State) : (putOutput bs s).inputs = s.inputs := rfl
@[simp] theorem putOutput_resp (bs : List Byte) (s : State) : (putOutput bs s).resp = s.resp := rfl
@[simp] theorem putOutput_draws (bs : List Byte) (s : State) : (putOutput bs s).draws = s.draws := rfl

/-! ## putKeyword -/

@[simp] theorem putKeyword_busy (k : List Byte) (s : State) : (putKeyword k s).busy = s.busy := rfl
@[simp] theorem putKeyword_err (k : List Byte) (s : State) : (putKeyword k s).err = s.err := rfl
@[simp] theorem putKeyword_ovr (k : List Byte) (s : State) : (putKeyword k s).ovr = s.ovr := rfl
@[simp] theorem putKeyword_kvalid (k : List Byte) (s : State) : (putKeyword k s).kvalid = s.kvalid := rfl
@[simp] theorem putKeyword_vkvalid (k : List Byte) (s : State) : (putKeyword k s).vkvalid = true := rfl
@[simp] theorem putKeyword_errCode (k : List Byte) (s : State) : (putKeyword k s).errCode = s.errCode := rfl
@[simp] theorem putKeyword_pending (k : List Byte) (s : State) : (putKeyword k s).pending = s.pending := rfl
@[simp] theorem putKeyword_inlen (k : List Byte) (s : State) : (putKeyword k s).inlen = s.inlen := rfl
@[simp] theorem putKeyword_outlen (k : List Byte) (s : State) : (putKeyword k s).outlen = s.outlen := rfl
@[simp] theorem putKeyword_gfA (k : List Byte) (s : State) : (putKeyword k s).gfA = s.gfA := rfl
@[simp] theorem putKeyword_gfB (k : List Byte) (s : State) : (putKeyword k s).gfB = s.gfB := rfl
@[simp] theorem putKeyword_gfP (k : List Byte) (s : State) : (putKeyword k s).gfP = s.gfP := rfl
@[simp] theorem putKeyword_shift (k : List Byte) (s : State) : (putKeyword k s).shift = s.shift := rfl
@[simp] theorem putKeyword_vklen (k : List Byte) (s : State) : (putKeyword k s).vklen = BitVec.ofNat 6 k.length := rfl
@[simp] theorem putKeyword_vkidx (k : List Byte) (s : State) : (putKeyword k s).vkidx = 0 := rfl
@[simp] theorem putKeyword_h0 (k : List Byte) (s : State) : (putKeyword k s).h0 = s.h0 := rfl
@[simp] theorem putKeyword_h1 (k : List Byte) (s : State) : (putKeyword k s).h1 = s.h1 := rfl
@[simp] theorem putKeyword_h2 (k : List Byte) (s : State) : (putKeyword k s).h2 = s.h2 := rfl
@[simp] theorem putKeyword_h3 (k : List Byte) (s : State) : (putKeyword k s).h3 = s.h3 := rfl
@[simp] theorem putKeyword_mlen (k : List Byte) (s : State) : (putKeyword k s).mlen = s.mlen := rfl
@[simp] theorem putKeyword_p (k : List Byte) (s : State) : (putKeyword k s).p = s.p := rfl
@[simp] theorem putKeyword_q (k : List Byte) (s : State) : (putKeyword k s).q = s.q := rfl
@[simp] theorem putKeyword_n (k : List Byte) (s : State) : (putKeyword k s).n = s.n := rfl
@[simp] theorem putKeyword_phi (k : List Byte) (s : State) : (putKeyword k s).phi = s.phi := rfl
@[simp] theorem putKeyword_d (k : List Byte) (s : State) : (putKeyword k s).d = s.d := rfl
@[simp] theorem putKeyword_x (k : List Byte) (s : State) : (putKeyword k s).x = s.x := rfl
@[simp] theorem putKeyword_y (k : List Byte) (s : State) : (putKeyword k s).y = s.y := rfl
@[simp] theorem putKeyword_m (k : List Byte) (s : State) : (putKeyword k s).m = s.m := rfl
@[simp] theorem putKeyword_r (k : List Byte) (s : State) : (putKeyword k s).r = s.r := rfl
@[simp] theorem putKeyword_keylen (k : List Byte) (s : State) : (putKeyword k s).keylen = s.keylen := rfl
@[simp] theorem putKeyword_nr (k : List Byte) (s : State) : (putKeyword k s).nr = s.nr := rfl
@[simp] theorem putKeyword_mem (k : List Byte) (s : State) : (putKeyword k s).mem = writeBytes s.mem ByteArr.vkey.base (k ++ List.replicate (Config.vkeyBytes - k.length) 0x00) := rfl
@[simp] theorem putKeyword_inputs (k : List Byte) (s : State) : (putKeyword k s).inputs = s.inputs := rfl
@[simp] theorem putKeyword_resp (k : List Byte) (s : State) : (putKeyword k s).resp = s.resp := rfl
@[simp] theorem putKeyword_draws (k : List Byte) (s : State) : (putKeyword k s).draws = s.draws := rfl

/-! ## putBlock -/

@[simp] theorem putBlock_busy (b : List Byte) (s : State) : (putBlock b s).busy = s.busy := rfl
@[simp] theorem putBlock_err (b : List Byte) (s : State) : (putBlock b s).err = s.err := rfl
@[simp] theorem putBlock_ovr (b : List Byte) (s : State) : (putBlock b s).ovr = s.ovr := rfl
@[simp] theorem putBlock_kvalid (b : List Byte) (s : State) : (putBlock b s).kvalid = s.kvalid := rfl
@[simp] theorem putBlock_vkvalid (b : List Byte) (s : State) : (putBlock b s).vkvalid = s.vkvalid := rfl
@[simp] theorem putBlock_errCode (b : List Byte) (s : State) : (putBlock b s).errCode = s.errCode := rfl
@[simp] theorem putBlock_pending (b : List Byte) (s : State) : (putBlock b s).pending = s.pending := rfl
@[simp] theorem putBlock_inlen (b : List Byte) (s : State) : (putBlock b s).inlen = s.inlen := rfl
@[simp] theorem putBlock_outlen (b : List Byte) (s : State) : (putBlock b s).outlen = s.outlen := rfl
@[simp] theorem putBlock_gfA (b : List Byte) (s : State) : (putBlock b s).gfA = s.gfA := rfl
@[simp] theorem putBlock_gfB (b : List Byte) (s : State) : (putBlock b s).gfB = s.gfB := rfl
@[simp] theorem putBlock_gfP (b : List Byte) (s : State) : (putBlock b s).gfP = s.gfP := rfl
@[simp] theorem putBlock_shift (b : List Byte) (s : State) : (putBlock b s).shift = s.shift := rfl
@[simp] theorem putBlock_vklen (b : List Byte) (s : State) : (putBlock b s).vklen = s.vklen := rfl
@[simp] theorem putBlock_vkidx (b : List Byte) (s : State) : (putBlock b s).vkidx = s.vkidx := rfl
@[simp] theorem putBlock_h0 (b : List Byte) (s : State) : (putBlock b s).h0 = s.h0 := rfl
@[simp] theorem putBlock_h1 (b : List Byte) (s : State) : (putBlock b s).h1 = s.h1 := rfl
@[simp] theorem putBlock_h2 (b : List Byte) (s : State) : (putBlock b s).h2 = s.h2 := rfl
@[simp] theorem putBlock_h3 (b : List Byte) (s : State) : (putBlock b s).h3 = s.h3 := rfl
@[simp] theorem putBlock_mlen (b : List Byte) (s : State) : (putBlock b s).mlen = s.mlen := rfl
@[simp] theorem putBlock_p (b : List Byte) (s : State) : (putBlock b s).p = s.p := rfl
@[simp] theorem putBlock_q (b : List Byte) (s : State) : (putBlock b s).q = s.q := rfl
@[simp] theorem putBlock_n (b : List Byte) (s : State) : (putBlock b s).n = s.n := rfl
@[simp] theorem putBlock_phi (b : List Byte) (s : State) : (putBlock b s).phi = s.phi := rfl
@[simp] theorem putBlock_d (b : List Byte) (s : State) : (putBlock b s).d = s.d := rfl
@[simp] theorem putBlock_x (b : List Byte) (s : State) : (putBlock b s).x = s.x := rfl
@[simp] theorem putBlock_y (b : List Byte) (s : State) : (putBlock b s).y = s.y := rfl
@[simp] theorem putBlock_m (b : List Byte) (s : State) : (putBlock b s).m = s.m := rfl
@[simp] theorem putBlock_r (b : List Byte) (s : State) : (putBlock b s).r = s.r := rfl
@[simp] theorem putBlock_keylen (b : List Byte) (s : State) : (putBlock b s).keylen = s.keylen := rfl
@[simp] theorem putBlock_nr (b : List Byte) (s : State) : (putBlock b s).nr = s.nr := rfl
@[simp] theorem putBlock_mem (b : List Byte) (s : State) : (putBlock b s).mem = writeBytes s.mem ByteArr.state.base b := rfl
@[simp] theorem putBlock_inputs (b : List Byte) (s : State) : (putBlock b s).inputs = s.inputs := rfl
@[simp] theorem putBlock_resp (b : List Byte) (s : State) : (putBlock b s).resp = s.resp := rfl
@[simp] theorem putBlock_draws (b : List Byte) (s : State) : (putBlock b s).draws = s.draws := rfl

/-! ## putSchedule -/

@[simp] theorem putSchedule_busy (w : List Byte) (k : Nat) (s : State) : (putSchedule w k s).busy = s.busy := rfl
@[simp] theorem putSchedule_err (w : List Byte) (k : Nat) (s : State) : (putSchedule w k s).err = s.err := rfl
@[simp] theorem putSchedule_ovr (w : List Byte) (k : Nat) (s : State) : (putSchedule w k s).ovr = s.ovr := rfl
@[simp] theorem putSchedule_kvalid (w : List Byte) (k : Nat) (s : State) : (putSchedule w k s).kvalid = true := rfl
@[simp] theorem putSchedule_vkvalid (w : List Byte) (k : Nat) (s : State) : (putSchedule w k s).vkvalid = s.vkvalid := rfl
@[simp] theorem putSchedule_errCode (w : List Byte) (k : Nat) (s : State) : (putSchedule w k s).errCode = s.errCode := rfl
@[simp] theorem putSchedule_pending (w : List Byte) (k : Nat) (s : State) : (putSchedule w k s).pending = s.pending := rfl
@[simp] theorem putSchedule_inlen (w : List Byte) (k : Nat) (s : State) : (putSchedule w k s).inlen = s.inlen := rfl
@[simp] theorem putSchedule_outlen (w : List Byte) (k : Nat) (s : State) : (putSchedule w k s).outlen = s.outlen := rfl
@[simp] theorem putSchedule_gfA (w : List Byte) (k : Nat) (s : State) : (putSchedule w k s).gfA = s.gfA := rfl
@[simp] theorem putSchedule_gfB (w : List Byte) (k : Nat) (s : State) : (putSchedule w k s).gfB = s.gfB := rfl
@[simp] theorem putSchedule_gfP (w : List Byte) (k : Nat) (s : State) : (putSchedule w k s).gfP = s.gfP := rfl
@[simp] theorem putSchedule_shift (w : List Byte) (k : Nat) (s : State) : (putSchedule w k s).shift = s.shift := rfl
@[simp] theorem putSchedule_vklen (w : List Byte) (k : Nat) (s : State) : (putSchedule w k s).vklen = s.vklen := rfl
@[simp] theorem putSchedule_vkidx (w : List Byte) (k : Nat) (s : State) : (putSchedule w k s).vkidx = s.vkidx := rfl
@[simp] theorem putSchedule_h0 (w : List Byte) (k : Nat) (s : State) : (putSchedule w k s).h0 = s.h0 := rfl
@[simp] theorem putSchedule_h1 (w : List Byte) (k : Nat) (s : State) : (putSchedule w k s).h1 = s.h1 := rfl
@[simp] theorem putSchedule_h2 (w : List Byte) (k : Nat) (s : State) : (putSchedule w k s).h2 = s.h2 := rfl
@[simp] theorem putSchedule_h3 (w : List Byte) (k : Nat) (s : State) : (putSchedule w k s).h3 = s.h3 := rfl
@[simp] theorem putSchedule_mlen (w : List Byte) (k : Nat) (s : State) : (putSchedule w k s).mlen = s.mlen := rfl
@[simp] theorem putSchedule_p (w : List Byte) (k : Nat) (s : State) : (putSchedule w k s).p = s.p := rfl
@[simp] theorem putSchedule_q (w : List Byte) (k : Nat) (s : State) : (putSchedule w k s).q = s.q := rfl
@[simp] theorem putSchedule_n (w : List Byte) (k : Nat) (s : State) : (putSchedule w k s).n = s.n := rfl
@[simp] theorem putSchedule_phi (w : List Byte) (k : Nat) (s : State) : (putSchedule w k s).phi = s.phi := rfl
@[simp] theorem putSchedule_d (w : List Byte) (k : Nat) (s : State) : (putSchedule w k s).d = s.d := rfl
@[simp] theorem putSchedule_x (w : List Byte) (k : Nat) (s : State) : (putSchedule w k s).x = s.x := rfl
@[simp] theorem putSchedule_y (w : List Byte) (k : Nat) (s : State) : (putSchedule w k s).y = s.y := rfl
@[simp] theorem putSchedule_m (w : List Byte) (k : Nat) (s : State) : (putSchedule w k s).m = s.m := rfl
@[simp] theorem putSchedule_r (w : List Byte) (k : Nat) (s : State) : (putSchedule w k s).r = s.r := rfl
@[simp] theorem putSchedule_keylen (w : List Byte) (k : Nat) (s : State) : (putSchedule w k s).keylen = s.keylen := rfl
@[simp] theorem putSchedule_nr (w : List Byte) (k : Nat) (s : State) : (putSchedule w k s).nr = BitVec.ofNat 4 k := rfl
@[simp] theorem putSchedule_mem (w : List Byte) (k : Nat) (s : State) : (putSchedule w k s).mem = writeBytes s.mem ByteArr.rk.base (w ++ List.replicate (Config.rkBytes - w.length) 0x00) := rfl
@[simp] theorem putSchedule_inputs (w : List Byte) (k : Nat) (s : State) : (putSchedule w k s).inputs = s.inputs := rfl
@[simp] theorem putSchedule_resp (w : List Byte) (k : Nat) (s : State) : (putSchedule w k s).resp = s.resp := rfl
@[simp] theorem putSchedule_draws (w : List Byte) (k : Nat) (s : State) : (putSchedule w k s).draws = s.draws := rfl

/-! ## putChain -/

@[simp] theorem putChain_busy (h : Chain) (l : DWord) (s : State) : (putChain h l s).busy = s.busy := rfl
@[simp] theorem putChain_err (h : Chain) (l : DWord) (s : State) : (putChain h l s).err = s.err := rfl
@[simp] theorem putChain_ovr (h : Chain) (l : DWord) (s : State) : (putChain h l s).ovr = s.ovr := rfl
@[simp] theorem putChain_kvalid (h : Chain) (l : DWord) (s : State) : (putChain h l s).kvalid = s.kvalid := rfl
@[simp] theorem putChain_vkvalid (h : Chain) (l : DWord) (s : State) : (putChain h l s).vkvalid = s.vkvalid := rfl
@[simp] theorem putChain_errCode (h : Chain) (l : DWord) (s : State) : (putChain h l s).errCode = s.errCode := rfl
@[simp] theorem putChain_pending (h : Chain) (l : DWord) (s : State) : (putChain h l s).pending = s.pending := rfl
@[simp] theorem putChain_inlen (h : Chain) (l : DWord) (s : State) : (putChain h l s).inlen = s.inlen := rfl
@[simp] theorem putChain_outlen (h : Chain) (l : DWord) (s : State) : (putChain h l s).outlen = s.outlen := rfl
@[simp] theorem putChain_gfA (h : Chain) (l : DWord) (s : State) : (putChain h l s).gfA = s.gfA := rfl
@[simp] theorem putChain_gfB (h : Chain) (l : DWord) (s : State) : (putChain h l s).gfB = s.gfB := rfl
@[simp] theorem putChain_gfP (h : Chain) (l : DWord) (s : State) : (putChain h l s).gfP = s.gfP := rfl
@[simp] theorem putChain_shift (h : Chain) (l : DWord) (s : State) : (putChain h l s).shift = s.shift := rfl
@[simp] theorem putChain_vklen (h : Chain) (l : DWord) (s : State) : (putChain h l s).vklen = s.vklen := rfl
@[simp] theorem putChain_vkidx (h : Chain) (l : DWord) (s : State) : (putChain h l s).vkidx = s.vkidx := rfl
@[simp] theorem putChain_h0 (h : Chain) (l : DWord) (s : State) : (putChain h l s).h0 = h.a := rfl
@[simp] theorem putChain_h1 (h : Chain) (l : DWord) (s : State) : (putChain h l s).h1 = h.b := rfl
@[simp] theorem putChain_h2 (h : Chain) (l : DWord) (s : State) : (putChain h l s).h2 = h.c := rfl
@[simp] theorem putChain_h3 (h : Chain) (l : DWord) (s : State) : (putChain h l s).h3 = h.d := rfl
@[simp] theorem putChain_mlen (h : Chain) (l : DWord) (s : State) : (putChain h l s).mlen = l := rfl
@[simp] theorem putChain_p (h : Chain) (l : DWord) (s : State) : (putChain h l s).p = s.p := rfl
@[simp] theorem putChain_q (h : Chain) (l : DWord) (s : State) : (putChain h l s).q = s.q := rfl
@[simp] theorem putChain_n (h : Chain) (l : DWord) (s : State) : (putChain h l s).n = s.n := rfl
@[simp] theorem putChain_phi (h : Chain) (l : DWord) (s : State) : (putChain h l s).phi = s.phi := rfl
@[simp] theorem putChain_d (h : Chain) (l : DWord) (s : State) : (putChain h l s).d = s.d := rfl
@[simp] theorem putChain_x (h : Chain) (l : DWord) (s : State) : (putChain h l s).x = s.x := rfl
@[simp] theorem putChain_y (h : Chain) (l : DWord) (s : State) : (putChain h l s).y = s.y := rfl
@[simp] theorem putChain_m (h : Chain) (l : DWord) (s : State) : (putChain h l s).m = s.m := rfl
@[simp] theorem putChain_r (h : Chain) (l : DWord) (s : State) : (putChain h l s).r = s.r := rfl
@[simp] theorem putChain_keylen (h : Chain) (l : DWord) (s : State) : (putChain h l s).keylen = s.keylen := rfl
@[simp] theorem putChain_nr (h : Chain) (l : DWord) (s : State) : (putChain h l s).nr = s.nr := rfl
@[simp] theorem putChain_mem (h : Chain) (l : DWord) (s : State) : (putChain h l s).mem = s.mem := rfl
@[simp] theorem putChain_inputs (h : Chain) (l : DWord) (s : State) : (putChain h l s).inputs = s.inputs := rfl
@[simp] theorem putChain_resp (h : Chain) (l : DWord) (s : State) : (putChain h l s).resp = s.resp := rfl
@[simp] theorem putChain_draws (h : Chain) (l : DWord) (s : State) : (putChain h l s).draws = s.draws := rfl

/-! ## putR -/

@[simp] theorem putR_busy (v : Nat) (s : State) : (putR v s).busy = s.busy := rfl
@[simp] theorem putR_err (v : Nat) (s : State) : (putR v s).err = s.err := rfl
@[simp] theorem putR_ovr (v : Nat) (s : State) : (putR v s).ovr = s.ovr := rfl
@[simp] theorem putR_kvalid (v : Nat) (s : State) : (putR v s).kvalid = s.kvalid := rfl
@[simp] theorem putR_vkvalid (v : Nat) (s : State) : (putR v s).vkvalid = s.vkvalid := rfl
@[simp] theorem putR_errCode (v : Nat) (s : State) : (putR v s).errCode = s.errCode := rfl
@[simp] theorem putR_pending (v : Nat) (s : State) : (putR v s).pending = s.pending := rfl
@[simp] theorem putR_inlen (v : Nat) (s : State) : (putR v s).inlen = s.inlen := rfl
@[simp] theorem putR_outlen (v : Nat) (s : State) : (putR v s).outlen = s.outlen := rfl
@[simp] theorem putR_gfA (v : Nat) (s : State) : (putR v s).gfA = s.gfA := rfl
@[simp] theorem putR_gfB (v : Nat) (s : State) : (putR v s).gfB = s.gfB := rfl
@[simp] theorem putR_gfP (v : Nat) (s : State) : (putR v s).gfP = s.gfP := rfl
@[simp] theorem putR_shift (v : Nat) (s : State) : (putR v s).shift = s.shift := rfl
@[simp] theorem putR_vklen (v : Nat) (s : State) : (putR v s).vklen = s.vklen := rfl
@[simp] theorem putR_vkidx (v : Nat) (s : State) : (putR v s).vkidx = s.vkidx := rfl
@[simp] theorem putR_h0 (v : Nat) (s : State) : (putR v s).h0 = s.h0 := rfl
@[simp] theorem putR_h1 (v : Nat) (s : State) : (putR v s).h1 = s.h1 := rfl
@[simp] theorem putR_h2 (v : Nat) (s : State) : (putR v s).h2 = s.h2 := rfl
@[simp] theorem putR_h3 (v : Nat) (s : State) : (putR v s).h3 = s.h3 := rfl
@[simp] theorem putR_mlen (v : Nat) (s : State) : (putR v s).mlen = s.mlen := rfl
@[simp] theorem putR_p (v : Nat) (s : State) : (putR v s).p = s.p := rfl
@[simp] theorem putR_q (v : Nat) (s : State) : (putR v s).q = s.q := rfl
@[simp] theorem putR_n (v : Nat) (s : State) : (putR v s).n = s.n := rfl
@[simp] theorem putR_phi (v : Nat) (s : State) : (putR v s).phi = s.phi := rfl
@[simp] theorem putR_d (v : Nat) (s : State) : (putR v s).d = s.d := rfl
@[simp] theorem putR_x (v : Nat) (s : State) : (putR v s).x = s.x := rfl
@[simp] theorem putR_y (v : Nat) (s : State) : (putR v s).y = s.y := rfl
@[simp] theorem putR_m (v : Nat) (s : State) : (putR v s).m = s.m := rfl
@[simp] theorem putR_r (v : Nat) (s : State) : (putR v s).r = BitVec.ofNat 64 v := rfl
@[simp] theorem putR_keylen (v : Nat) (s : State) : (putR v s).keylen = s.keylen := rfl
@[simp] theorem putR_nr (v : Nat) (s : State) : (putR v s).nr = s.nr := rfl
@[simp] theorem putR_mem (v : Nat) (s : State) : (putR v s).mem = s.mem := rfl
@[simp] theorem putR_inputs (v : Nat) (s : State) : (putR v s).inputs = s.inputs := rfl
@[simp] theorem putR_resp (v : Nat) (s : State) : (putR v s).resp = s.resp := rfl
@[simp] theorem putR_draws (v : Nat) (s : State) : (putR v s).draws = s.draws := rfl

/-! ## drawR -/

@[simp] theorem drawR_busy (k : Nat) (s : State) : (drawR k s).busy = s.busy := rfl
@[simp] theorem drawR_err (k : Nat) (s : State) : (drawR k s).err = s.err := rfl
@[simp] theorem drawR_ovr (k : Nat) (s : State) : (drawR k s).ovr = s.ovr := rfl
@[simp] theorem drawR_kvalid (k : Nat) (s : State) : (drawR k s).kvalid = s.kvalid := rfl
@[simp] theorem drawR_vkvalid (k : Nat) (s : State) : (drawR k s).vkvalid = s.vkvalid := rfl
@[simp] theorem drawR_errCode (k : Nat) (s : State) : (drawR k s).errCode = s.errCode := rfl
@[simp] theorem drawR_pending (k : Nat) (s : State) : (drawR k s).pending = s.pending := rfl
@[simp] theorem drawR_inlen (k : Nat) (s : State) : (drawR k s).inlen = s.inlen := rfl
@[simp] theorem drawR_outlen (k : Nat) (s : State) : (drawR k s).outlen = s.outlen := rfl
@[simp] theorem drawR_gfA (k : Nat) (s : State) : (drawR k s).gfA = s.gfA := rfl
@[simp] theorem drawR_gfB (k : Nat) (s : State) : (drawR k s).gfB = s.gfB := rfl
@[simp] theorem drawR_gfP (k : Nat) (s : State) : (drawR k s).gfP = s.gfP := rfl
@[simp] theorem drawR_shift (k : Nat) (s : State) : (drawR k s).shift = s.shift := rfl
@[simp] theorem drawR_vklen (k : Nat) (s : State) : (drawR k s).vklen = s.vklen := rfl
@[simp] theorem drawR_vkidx (k : Nat) (s : State) : (drawR k s).vkidx = s.vkidx := rfl
@[simp] theorem drawR_h0 (k : Nat) (s : State) : (drawR k s).h0 = s.h0 := rfl
@[simp] theorem drawR_h1 (k : Nat) (s : State) : (drawR k s).h1 = s.h1 := rfl
@[simp] theorem drawR_h2 (k : Nat) (s : State) : (drawR k s).h2 = s.h2 := rfl
@[simp] theorem drawR_h3 (k : Nat) (s : State) : (drawR k s).h3 = s.h3 := rfl
@[simp] theorem drawR_mlen (k : Nat) (s : State) : (drawR k s).mlen = s.mlen := rfl
@[simp] theorem drawR_p (k : Nat) (s : State) : (drawR k s).p = s.p := rfl
@[simp] theorem drawR_q (k : Nat) (s : State) : (drawR k s).q = s.q := rfl
@[simp] theorem drawR_n (k : Nat) (s : State) : (drawR k s).n = s.n := rfl
@[simp] theorem drawR_phi (k : Nat) (s : State) : (drawR k s).phi = s.phi := rfl
@[simp] theorem drawR_d (k : Nat) (s : State) : (drawR k s).d = s.d := rfl
@[simp] theorem drawR_x (k : Nat) (s : State) : (drawR k s).x = s.x := rfl
@[simp] theorem drawR_y (k : Nat) (s : State) : (drawR k s).y = s.y := rfl
@[simp] theorem drawR_m (k : Nat) (s : State) : (drawR k s).m = s.m := rfl
@[simp] theorem drawR_r (k : Nat) (s : State) : (drawR k s).r = BitVec.ofNat 64 (Config.rsaDraw s.draws % k) := rfl
@[simp] theorem drawR_keylen (k : Nat) (s : State) : (drawR k s).keylen = s.keylen := rfl
@[simp] theorem drawR_nr (k : Nat) (s : State) : (drawR k s).nr = s.nr := rfl
@[simp] theorem drawR_mem (k : Nat) (s : State) : (drawR k s).mem = s.mem := rfl
@[simp] theorem drawR_inputs (k : Nat) (s : State) : (drawR k s).inputs = s.inputs := rfl
@[simp] theorem drawR_resp (k : Nat) (s : State) : (drawR k s).resp = s.resp := rfl
@[simp] theorem drawR_draws (k : Nat) (s : State) : (drawR k s).draws = s.draws + 1 := rfl

end Sys2Proof.Machine
end

