-- ==== Sys2Proof/Laws/Bus.lean ====
section
/-! SUPPORT. What a bus access, the register map and the reset input can do, each said once. -/

namespace Sys2Proof.Machine

/-! ## The register map -/

theorem regAt_offset (g : Reg) : regAt g.offset = some g := by cases g <;> rfl

theorem eq_offset_of_regAt {off : Nat} {g : Reg} (h : regAt off = some g) : off = g.offset := by
  unfold regAt at h
  split at h <;> first | (cases h; rfl) | cases h

/-- Registers and byte arrays do not overlap. -/
theorem arrAt_reg_offset (g : Reg) : arrAt g.offset = none := by cases g <;> rfl

/-- A register's offset leads to that register. -/
theorem targetAt_offset (g : Reg) : targetAt g.offset = some (.reg g) := by
  rw [targetAt, regAt_offset]

theorem targetAt_reg {off : Nat} {g : Reg} (h : targetAt off = some (.reg g)) : off = g.offset := by
  unfold targetAt at h
  split at h
  · next g' hg => cases h; exact eq_offset_of_regAt hg
  · cases ha : arrAt off <;> simp [ha] at h

theorem targetAt_arr {off : Nat} {b : ByteArr} (h : targetAt off = some (.arr b)) :
    b.base ≤ off ∧ off < b.base + b.size := by
  unfold targetAt at h
  split at h
  · cases h
  · cases ha : arrAt off <;> simp [ha] at h
    exact h ▸ holds_of_arrAt ha

/-- An offset inside an array leads to that array. -/
theorem targetAt_of_holds {b : ByteArr} {off : Nat} (h1 : b.base ≤ off) (h2 : off < b.base + b.size) :
    targetAt off = some (.arr b) := by
  have harr := arrAt_of_holds h1 h2
  unfold targetAt
  split
  · next g hg =>
    rw [eq_offset_of_regAt hg, arrAt_reg_offset] at harr
    cases harr
  · rw [harr]; rfl

/-- The access that reaches a target is 32 bits wide and aligned (20_memory.md R66). -/
theorem accessTarget_some {a : Access} {t : Target} (h : accessTarget a = some t) :
    a.size = 4 ∧ a.off.toNat % 4 = 0 ∧ targetAt a.off.toNat = some t := by
  unfold accessTarget at h
  split at h
  · next hc => exact ⟨hc.1, hc.2, h⟩
  · cases h

theorem accessTarget_of_aligned {a : Access} (h4 : a.size = 4) (ha : a.off.toNat % 4 = 0) :
    accessTarget a = targetAt a.off.toNat := if_pos ⟨h4, ha⟩

/-! ## Words -/

theorem wordBytes_le32 (b0 b1 b2 b3 : Byte) : wordBytes (le32 b0 b1 b2 b3) = [b0, b1, b2, b3] := by
  simp only [wordBytes, le32, List.cons.injEq, and_true]
  refine ⟨?_, ?_, ?_, ?_⟩ <;> apply BitVec.eq_of_getLsbD_eq <;> intro i hi <;>
    simp [hi] <;> grind

@[simp] theorem length_wordBytes (v : Word) : (wordBytes v).length = 4 := rfl

theorem getLsbD_words (a b : Word) (i : Nat) :
    BitVec.getLsbD (a ++ b : DWord) i = if i < 32 then b.getLsbD i else a.getLsbD (i - 32) :=
  BitVec.getLsbD_append

theorem loWord_setLoWord (v : DWord) (w : Word) : loWord (setLoWord v w) = w := by
  apply BitVec.eq_of_getLsbD_eq
  intro i hi
  rw [loWord, setLoWord, BitVec.getLsbD_extractLsb', getLsbD_words]
  grind

theorem hiWord_setLoWord (v : DWord) (w : Word) : hiWord (setLoWord v w) = hiWord v := by
  apply BitVec.eq_of_getLsbD_eq
  intro i hi
  rw [hiWord, setLoWord, BitVec.getLsbD_extractLsb', getLsbD_words]
  grind

theorem hiWord_setHiWord (v : DWord) (w : Word) : hiWord (setHiWord v w) = w := by
  apply BitVec.eq_of_getLsbD_eq
  intro i hi
  rw [hiWord, setHiWord, BitVec.getLsbD_extractLsb', getLsbD_words]
  grind

theorem loWord_setHiWord (v : DWord) (w : Word) : loWord (setHiWord v w) = loWord v := by
  apply BitVec.eq_of_getLsbD_eq
  intro i hi
  rw [loWord, setHiWord, BitVec.getLsbD_extractLsb', getLsbD_words]
  grind

/-! ## Writes -/

/-- Everything a host write to a byte array can do: nothing, or store four bytes at the word's offset, and then clear the
valid flag of KEY or VKEY. -/
theorem writeArrWord_cases (b : ByteArr) (off : Nat) (v : Word) (s : State) :
    writeArrWord b off v s = s ∨
      ∃ k vk, writeArrWord b off v s =
        { s with mem := writeBytes s.mem off (wordBytes v), kvalid := k, vkvalid := vk } := by
  cases b
  · exact .inr ⟨s.kvalid, false, rfl⟩
  · exact .inr ⟨false, s.vkvalid, rfl⟩
  · exact .inr ⟨s.kvalid, s.vkvalid, rfl⟩
  · exact .inl rfl
  · exact .inr ⟨s.kvalid, s.vkvalid, rfl⟩
  · exact .inl rfl

/-- A register write leaves the byte arrays alone. -/
theorem writeReg_mem (g : Reg) (v : Word) (s : State) : (writeReg g v s).mem = s.mem := by cases g <;> rfl

theorem writeReg_inputs (g : Reg) (v : Word) (s : State) : (writeReg g v s).inputs = s.inputs := by cases g <;> rfl

theorem writeReg_draws (g : Reg) (v : Word) (s : State) : (writeReg g v s).draws = s.draws := by cases g <;> rfl

/-- A host write of a word keeps the canonical form: the word lies inside one array. -/
theorem wf_writeArrWord {b : ByteArr} {off : Nat} {v : Word} {s : State} (hm : Memory.wf s.mem)
    (ht : targetAt off = some (.arr b)) (ha : off % 4 = 0) : Memory.wf (writeArrWord b off v s).mem := by
  rcases writeArrWord_cases b off v s with h | ⟨k, vk, h⟩
  · rw [h]; exact hm
  · rw [h]
    obtain ⟨h1, h2⟩ := targetAt_arr ht
    refine wf_writeBytes hm fun x hx1 hx2 => arrAt_isSome (b := b) (by omega) ?_
    rw [length_wordBytes] at hx2
    cases b <;>
      simp only [ByteArr.base, ByteArr.size, Config.vkeyBytes, Config.aesKeyBytes, Config.rkBytes, Config.bufBytes] at * <;>
      omega

/-! ## Accesses -/

/-- Everything a host access can do: a response and no more (a bus error, or a read, which may draw a free value); OVR and a
response (a write while BUSY = 1); or a write to the target and a response. -/
theorem busAccess_cases (a : Access) (s : State) :
    (∃ r, busAccess a s = { s with resp := some r }) ∨
    (∃ r, s.busy = true ∧ busAccess a s = { s with resp := some r, draws := s.draws + 1 }) ∨
    (s.busy = true ∧ busAccess a s = { setOvr s with resp := some (.done false) }) ∨
    (∃ t v, s.busy = false ∧ accessTarget a = some t ∧ a.op = .write v ∧
      busAccess a s = { writeTarget t a.off.toNat v s with resp := some (.done false) }) := by
  unfold busAccess
  split
  · refine .inl ?_
    cases a.op
    · exact ⟨_, rfl⟩
    · exact ⟨_, rfl⟩
  · next t ht =>
    split
    · unfold readAccess
      split
      · next h => exact .inr (.inl ⟨_, h.1, rfl⟩)
      · exact .inl ⟨_, rfl⟩
    · next v hv =>
      unfold writeAccess
      cases hb : s.busy
      · exact .inr (.inr (.inr ⟨t, v, rfl, ht, hv, rfl⟩))
      · exact .inr (.inr (.inl ⟨rfl, rfl⟩))

/-- Everything the reset input does, but for the response. -/
theorem resetInput_eq (o : Option Access) (s : State) :
    ∃ r, resetInput o s =
      { State.reset with mem := powerOnMemory s.draws, inputs := s.inputs, resp := r, draws := s.draws + 1 } :=
  ⟨_, rfl⟩

end Sys2Proof.Machine
end

