-- ==== Sys2Proof/Laws/Commands.lean ====
section
/-! SUPPORT. What the shapes shared by several commands can do, each said once, and the sizes of what the units
compute. -/

namespace Sys2Proof.Machine

/-! ## Shapes -/

/-- Everything CAES_ENC and CAES_DEC can do. -/
theorem mapInput_cases (f : Byte → Byte) (s : State) :
    (s.inlen.toNat > Config.bufBytes ∧ mapInput f s = .next (fail .lengthError s)) ∨
      (s.inlen.toNat ≤ Config.bufBytes ∧
        mapInput f s = .next (complete (putOutput ((inputBytes s).map f) s))) := by
  unfold mapInput
  split
  · next h => exact .inl ⟨h, rfl⟩
  · next h => exact .inr ⟨by omega, rfl⟩

/-- Everything VIG_ENC and VIG_DEC can do. -/
theorem vigRun_cases (f : Byte → Byte → Byte) (s : State) :
    (s.vkvalid = false ∧ vigRun f s = .next (fail .missingKeyword s)) ∨
      (s.vkvalid = true ∧ s.inlen.toNat > Config.bufBytes ∧ vigRun f s = .next (fail .lengthError s)) ∨
      (s.vkvalid = true ∧ s.inlen.toNat ≤ Config.bufBytes ∧
        vigRun f s = .next (complete
          { putOutput (vigLoop f (keywordBytes s) s.vkidx.toNat (inputBytes s)).1 s with
            vkidx := BitVec.ofNat 5 (vigLoop f (keywordBytes s) s.vkidx.toNat (inputBytes s)).2 })) := by
  unfold vigRun
  split
  · next h => exact .inl ⟨h, rfl⟩
  · next h =>
    have hv : s.vkvalid = true := by simpa using h
    split
    · next h => exact .inr (.inl ⟨hv, h, rfl⟩)
    · next h => exact .inr (.inr ⟨hv, by omega, rfl⟩)

/-- Everything the six one-transform AES commands can do. -/
theorem transformState_eq (f : List Byte → List Byte) (s : State) :
    transformState f s = .next (complete (putBlock (f (stateBlock s)) s)) := rfl

/-- Everything RSA_ENC and RSA_DEC can do. -/
theorem rsaPower_cases (e : Nat) (s : State) :
    (s.n.toNat = 0 ∧ rsaPower e s = .next (fail .modulusZero s)) ∨
      (s.x.toNat < s.n.toNat ∧ rsaPower e s = .next (complete (putR (modexp s.x.toNat e s.n.toNat) s))) ∨
      (s.n.toNat ≠ 0 ∧ s.n.toNat ≤ s.x.toNat ∧ rsaPower e s = .next (complete (drawR s.n.toNat s))) := by
  unfold rsaPower
  split
  · next h => exact .inl ⟨h, rfl⟩
  · next h =>
    split
    · next h2 => exact .inr (.inl ⟨h2, rfl⟩)
    · next h2 => exact .inr (.inr ⟨h, by omega, rfl⟩)

/-! ## Operands -/

@[simp] theorem length_inputBytes (s : State) : (inputBytes s).length = s.inlen.toNat := length_readBytes ..

@[simp] theorem length_keywordBytes (s : State) : (keywordBytes s).length = s.vklen.toNat := length_readBytes ..

@[simp] theorem length_keyBytes (s : State) : (keyBytes s).length = s.keylen.toNat := length_readBytes ..

@[simp] theorem length_stateBlock (s : State) : (stateBlock s).length = 16 := length_readBytes ..

@[simp] theorem length_roundKeys (s : State) : (roundKeys s).length = Config.rkBytes := length_readBytes ..

/-! ## Classical -/

theorem isUpper_of_letter {b : Byte} (h : isLetter b = true) : isUpper (b &&& 0xDF) = true := by
  revert b; decide

theorem normKeyword_upper {k : List Byte} {b : Byte} (h : b ∈ normKeyword k) : isUpper b = true := by
  obtain ⟨c, hc, rfl⟩ := List.mem_map.1 h
  exact isUpper_of_letter (List.mem_filter.1 hc).2

theorem length_normKeyword_le (k : List Byte) : (normKeyword k).length ≤ k.length := by
  rw [normKeyword, List.length_map]
  exact List.length_filter_le _ _

@[simp] theorem length_vigLoop (f : Byte → Byte → Byte) (key : List Byte) (j : Nat) (bs : List Byte) :
    (vigLoop f key j bs).1.length = bs.length := by
  induction bs generalizing j with
  | nil => rfl
  | cons b bs ih =>
    by_cases h : isLetter b <;> simp [vigLoop, h, ih]

/-- The key index stays inside the keyword. -/
theorem vigLoop_index_lt (f : Byte → Byte → Byte) (key : List Byte) (j : Nat) (bs : List Byte) (h : j < key.length) :
    (vigLoop f key j bs).2 < key.length := by
  induction bs generalizing j with
  | nil => exact h
  | cons b bs ih =>
    by_cases hb : isLetter b
    · simpa [vigLoop, hb] using ih _ (Nat.mod_lt _ (by omega))
    · simpa [vigLoop, hb] using ih _ h

/-! ## Base64 -/

@[simp] theorem length_bitsMsb (k v : Nat) : (bitsMsb k v).length = k := by
  induction k with
  | zero => rfl
  | succ k ih => simp [bitsMsb, ih]

@[simp] theorem length_bitGroups (k n : Nat) (bits : List Bool) : (bitGroups k n bits).length = n := by
  induction n generalizing bits with
  | zero => rfl
  | succ n ih => simp [bitGroups, ih]

theorem length_flatMap_const {α β : Type} (f : α → List β) (k : Nat) (l : List α) (h : ∀ a, (f a).length = k) :
    (l.flatMap f).length = k * l.length := by
  induction l with
  | nil => simp
  | cons a l ih => rw [List.flatMap_cons, List.length_append, ih, h, List.length_cons]; ring

theorem length_encodeBits (bs : List Byte) :
    (encodeBits bs).length = 8 * bs.length + (6 - (8 * bs.length) % 6) % 6 := by
  rw [encodeBits, List.length_append, List.length_replicate, length_flatMap_const _ 8 _ fun _ => length_bitsMsb _ _]

/-- `G + P = 4 * ceil(L / 3)` (42_base64.md R148). -/
theorem length_base64Encode (bs : List Byte) : (base64Encode bs).length = 4 * ((bs.length + 2) / 3) := by
  rw [base64Encode, List.length_append, List.length_map, List.length_replicate, length_bitGroups, length_encodeBits]
  have h3 : bs.length % 3 = 0 ∨ bs.length % 3 = 1 ∨ bs.length % 3 = 2 := by omega
  rcases h3 with h | h | h <;> omega

/-- The output of B64_DEC is at most `floor(6 * L / 8)` bytes (R151). -/
theorem length_base64Decode_le (t : List Byte) : (base64Decode t).length ≤ 6 * t.length / 8 := by
  simp only [base64Decode, List.length_map, length_bitGroups, List.length_take]
  rw [length_flatMap_const _ 6 _ fun _ => length_bitsMsb _ _]
  have := List.length_filter_le (fun c => decide (c ≠ padByte)) t
  refine Nat.div_le_div_right (le_trans (Nat.min_le_right _ _) ?_)
  omega

/-! ## MD5 -/

@[simp] theorem length_digestBytes (h : Chain) : (digestBytes h).length = 16 := rfl

/-! ## AES -/

@[simp] theorem length_blockOf (f : Nat → Nat → Byte) : (blockOf f).length = 16 := by simp [blockOf]

@[simp] theorem length_subBytes (b : List Byte) : (subBytes b).length = b.length := List.length_map ..

@[simp] theorem length_invSubBytes (b : List Byte) : (invSubBytes b).length = b.length := List.length_map ..

@[simp] theorem length_shiftRows (b : List Byte) : (shiftRows b).length = 16 := length_blockOf _

@[simp] theorem length_invShiftRows (b : List Byte) : (invShiftRows b).length = 16 := length_blockOf _

@[simp] theorem length_mixColumns (b : List Byte) : (mixColumns b).length = 16 := length_blockOf _

@[simp] theorem length_invMixColumns (b : List Byte) : (invMixColumns b).length = 16 := length_blockOf _

@[simp] theorem length_roundKey (rk : List Byte) (r : Nat) : (roundKey rk r).length = 16 := by simp [roundKey]

@[simp] theorem length_xorBytes (a b : List Byte) : (xorBytes a b).length = min a.length b.length :=
  List.length_zipWith ..

@[simp] theorem length_addRoundKey (b rk : List Byte) (r : Nat) : (addRoundKey b rk r).length = min b.length 16 := by
  simp [addRoundKey]

theorem length_pkcs7 {m : List Byte} (h : m.length ≤ 16) : (pkcs7 m).length = 16 := by
  simp only [pkcs7, List.length_append, List.length_replicate]
  omega

theorem length_foldl_block (f : List Byte → Nat → List Byte) (hf : ∀ b r, b.length = 16 → (f b r).length = 16)
    (l : List Nat) (b : List Byte) (hb : b.length = 16) : (l.foldl f b).length = 16 := by
  induction l generalizing b with
  | nil => exact hb
  | cons r l ih => exact ih _ (hf _ _ hb)

theorem length_cipher {b : List Byte} (hb : b.length = 16) (rk : List Byte) (rounds : Nat) :
    (cipher b rk rounds).length = 16 := by
  refine length_foldl_block _ (fun b r _ => ?_) _ _ (by simp [hb])
  simp only [cipherRound, length_addRoundKey]
  split <;> simp

theorem length_invCipher {b : List Byte} (hb : b.length = 16) (rk : List Byte) (rounds : Nat) :
    (invCipher b rk rounds).length = 16 := by
  refine length_foldl_block _ (fun b r _ => ?_) _ _ (by simp [hb])
  simp only [invCipherRound]
  split <;> simp

/-- Every word of a schedule under construction has four bytes, and `n` words are there. -/
def WordsOk (ws : List (List Byte)) (n : Nat) : Prop := ws.length = n ∧ ∀ w ∈ ws, w.length = 4

theorem wordsOk_getD {ws : List (List Byte)} {n i : Nat} (h : WordsOk ws n) (hi : i < n) : (ws.getD i []).length = 4 := by
  have : i < ws.length := by rw [h.1]; exact hi
  simp only [List.getD, List.getElem?_eq_getElem this, Option.getD_some]
  exact h.2 _ (List.getElem_mem this)

theorem length_rotWord {w : List Byte} (h : w.length = 4) : (rotWord w).length = 4 := by
  simp [rotWord, List.rotateLeft, h]

theorem wordsOk_expandStep {nk n : Nat} {ws : List (List Byte)} (h : WordsOk ws n) (hnk : 0 < nk) (hn : nk ≤ n) :
    WordsOk (expandStep nk ws) (n + 1) := by
  have h1 := wordsOk_getD (i := ws.length - nk) h (by rw [h.1]; omega)
  have h2 := wordsOk_getD (i := ws.length - 1) h (by rw [h.1]; omega)
  refine ⟨by simp [expandStep, h.1], fun w hw => ?_⟩
  rcases List.mem_append.1 hw with hw | hw
  · exact h.2 w hw
  · rw [List.mem_singleton.1 hw, length_xorBytes, h1]
    have : (scheduleTemp nk ws.length (ws.getD (ws.length - 1) [])).length = 4 := by
      unfold scheduleTemp
      split
      · rw [length_xorBytes, subWord, List.length_map, length_rotWord h2]; rfl
      · split
        · rw [subWord, List.length_map, h2]
        · exact h2
    rw [this]
    rfl

theorem wordsOk_foldl {nk : Nat} (hnk : 0 < nk) (l : List Nat) (ws : List (List Byte)) (n : Nat) (h : WordsOk ws n)
    (hn : nk ≤ n) : WordsOk (l.foldl (fun ws _ => expandStep nk ws) ws) (n + l.length) := by
  induction l generalizing ws n with
  | nil => exact h
  | cons a l ih =>
    rw [List.foldl_cons, List.length_cons, Nat.add_comm l.length, ← Nat.add_assoc]
    exact ih _ _ (wordsOk_expandStep h hnk hn) (by omega)

/-- A schedule has `4(Nr+1)` words of four bytes (44_aes.md R186, R199). -/
theorem wordsOk_scheduleWords {key : List Byte} {nk : Nat} (hk : key.length = 4 * nk) (hnk : 0 < nk) :
    WordsOk (scheduleWords key) (4 * (roundsOf nk + 1)) := by
  have hdiv : key.length / 4 = nk := by omega
  have hinit : WordsOk ((List.range nk).map fun i => (key.drop (4 * i)).take 4) nk := by
    refine ⟨by simp, fun w hw => ?_⟩
    obtain ⟨i, hi, rfl⟩ := List.mem_map.1 hw
    have := List.mem_range.1 hi
    rw [List.length_take, List.length_drop]
    omega
  have := wordsOk_foldl hnk (List.range (4 * (roundsOf nk + 1) - nk)) _ _ hinit (Nat.le_refl _)
  unfold scheduleWords
  rw [hdiv]
  rw [List.length_range] at this
  convert this using 1
  unfold roundsOf
  omega

theorem length_flatten_const {l : List (List Byte)} {k : Nat} (h : ∀ w ∈ l, w.length = k) : l.flatten.length = k * l.length := by
  induction l with
  | nil => simp
  | cons w l ih =>
    rw [List.flatten_cons, List.length_append, ih fun v hv => h v (List.mem_cons_of_mem _ hv), h w (by simp),
      List.length_cons]
    ring

/-- KeyExpansion gives `16(Nr+1)` bytes (R186, R199). -/
theorem length_keyExpansion {key : List Byte} {nk : Nat} (hk : key.length = 4 * nk) (hnk : 0 < nk) :
    (keyExpansion key).length = 16 * (roundsOf nk + 1) := by
  obtain ⟨h1, h2⟩ := wordsOk_scheduleWords hk hnk
  rw [keyExpansion, length_flatten_const h2, h1]
  ring

end Sys2Proof.Machine
end

