-- ==== Sys2Proof/Laws/Claims.lean ====
section
/-! SUPPORT. The words that claims use, held against the definitions of the machine: the mapped offsets, the host's
next access, and what a command can write at all. -/

namespace Sys2Proof.Machine

/-! ## The map -/

/-- The offsets of the byte arrays (20_memory.md R62). -/
theorem arrAt_isSome_iff (off : Nat) :
    (arrAt off).isSome = true ↔
      (0x0060 ≤ off ∧ off < 0x0080) ∨ (0x0100 ≤ off ∧ off < 0x0120) ∨ (0x0130 ≤ off ∧ off < 0x0140) ∨
        (0x0400 ≤ off ∧ off < 0x04F0) ∨ (0x1000 ≤ off ∧ off < 0x3000) := by
  constructor
  · intro h
    obtain ⟨b, hb⟩ := Option.isSome_iff_exists.1 h
    have := holds_of_arrAt hb
    cases b <;>
      simp only [ByteArr.base, ByteArr.size, Config.vkeyBytes, Config.aesKeyBytes, Config.rkBytes, Config.bufBytes] at this <;>
      omega
  · have hib : ByteArr.ibuf.base + ByteArr.ibuf.size = 0x2000 := rfl
    have hob : ByteArr.obuf.base + ByteArr.obuf.size = 0x3000 := rfl
    rintro (h | h | h | h | h)
    · exact arrAt_isSome (b := .vkey) h.1 h.2
    · exact arrAt_isSome (b := .key) h.1 h.2
    · exact arrAt_isSome (b := .state) h.1 h.2
    · exact arrAt_isSome (b := .rk) h.1 h.2
    · rcases Nat.lt_or_ge off 0x2000 with hlt | hge
      · exact arrAt_isSome (b := .ibuf) h.1 (by omega)
      · exact arrAt_isSome (b := .obuf) hge (by omega)

/-- The offsets of the registers that are no words of an array (R62). -/
def regOffsets : List Nat :=
  [0x0000, 0x0004, 0x0008, 0x000C, 0x0020, 0x0024, 0x0028, 0x0040, 0x0044, 0x0048] ++
    [0x0080, 0x0084, 0x0088, 0x008C, 0x0090, 0x0094, 0x00A0, 0x00A4, 0x00A8] ++
    [0x00B0, 0x00B4, 0x00B8, 0x00BC, 0x00C0, 0x00C4, 0x00C8, 0x00CC] ++
    [0x00D0, 0x00D4, 0x00D8, 0x00DC, 0x00E0, 0x00E4, 0x0120, 0x0124]

theorem regAt_isSome_of_mem {off : Nat} (h : off ∈ regOffsets) : (regAt off).isSome = true := by
  have : ∀ o ∈ regOffsets, (regAt o).isSome = true := by decide
  exact this off h

/-- A word-aligned offset has a target exactly when the map has it (R62, R67). -/
theorem targetAt_isSome_iff {off : Nat} (h4 : off % 4 = 0) : (targetAt off).isSome = true ↔ MappedOffset off := by
  unfold targetAt
  cases h : regAt off with
  | some g =>
    simp only [Option.isSome_some, true_iff]
    rw [eq_offset_of_regAt h]
    cases g <;> simp [Reg.offset, MappedOffset]
  | none =>
    simp only [Option.isSome_map, arrAt_isSome_iff]
    constructor
    · intro ha
      unfold MappedOffset
      omega
    · rintro ⟨-, hm⟩
      by_contra hc
      have hmem : off ∈ regOffsets := by
        simp only [regOffsets, List.mem_append, List.mem_cons, List.not_mem_nil, or_false]
        omega
      have := regAt_isSome_of_mem hmem
      rw [h] at this
      cases this

/-- A 32-bit access at a mapped offset has a target. -/
theorem accessTarget_of_mapped {off : Nat} {o : Offset} (op : BusOp) (ho : o.toNat = off) (hm : MappedOffset off) :
    ∃ t, accessTarget ⟨4, o, op⟩ = some t ∧ targetAt off = some t := by
  obtain ⟨t, ht⟩ := Option.isSome_iff_exists.1 ((targetAt_isSome_iff hm.1).2 hm)
  subst ho
  exact ⟨t, by rw [accessTarget_of_aligned rfl hm.1]; exact ht, ht⟩

/-! ## Steps -/

/-- A step on the host's next access is that access on what follows it. -/
theorem step_nextAccess {s : State} {off : Nat} {op : BusOp} {rest : List Input} (h : NextAccess s off op rest) :
    ∃ o : Offset, o.toNat = off ∧ step s = .next (busAccess ⟨4, o, op⟩ { s with inputs := rest }) := by
  obtain ⟨o, ho, hi⟩ := h
  exact ⟨o, ho, by simp only [step, nextEvent, hi]⟩

/-- A step on the engine's turn with BUSY = 1 is the engine's step (70_reset_and_hazards.md R283). -/
theorem step_engineTurn {s u : State} (hb : s.busy = true) (h : EngineTurn s u) : step s = engineStep u := by
  rcases h with ⟨hi, rfl⟩ | ⟨rest, hi, rfl⟩ <;> simp [step, nextEvent, hi, engineTurn, hb]

/-! ## Reads while BUSY = 0 -/

/-- A read while BUSY = 0 answers the stored value and writes nothing but the response (20_memory.md R69, R73). -/
theorem readAccess_idle {s : State} (t : Target) (off : Nat) (hb : s.busy = false) :
    readAccess t off s = { s with resp := some (.data (readTarget t off s) false) } := by
  simp [readAccess, hb]

/-- The number of a little-endian word (00_scope.md R10). -/
theorem le32_eq (b0 b1 b2 b3 : Byte) :
    le32 b0 b1 b2 b3 = BitVec.ofNat 32 (b0.toNat + 256 * b1.toNat + 65536 * b2.toNat + 16777216 * b3.toNat) := by
  apply BitVec.eq_of_toNat_eq
  have h0 := b0.isLt
  have h1 := b1.isLt
  have h2 := b2.isLt
  have h3 := b3.isLt
  simp only [le32, BitVec.toNat_append, BitVec.toNat_ofNat]
  rw [← Nat.shiftLeft_add_eq_or_of_lt h2, ← Nat.shiftLeft_add_eq_or_of_lt h1, ← Nat.shiftLeft_add_eq_or_of_lt h0,
    Nat.mod_eq_of_lt (by omega)]
  simp only [Nat.shiftLeft_eq]
  omega

theorem loWord_eq (v : DWord) : loWord v = BitVec.ofNat 32 (v.toNat % 2 ^ 32) := by
  apply BitVec.eq_of_toNat_eq
  simp [loWord]

theorem hiWord_eq (v : DWord) : hiWord v = BitVec.ofNat 32 (v.toNat / 2 ^ 32) := by
  apply BitVec.eq_of_toNat_eq
  simp [hiWord, Nat.shiftRight_eq_div_pow]

/-- The number of the STATUS word (10_state.md R25). -/
theorem statusWord_eq (s : State) :
    statusWord s = BitVec.ofNat 32 (s.busy.toNat + 2 * s.err.toNat + 4 * s.ovr.toNat + 8 * s.kvalid.toNat +
      16 * s.vkvalid.toNat + 256 * s.errCode.toNat) := by
  have hc : ∀ (c : Byte) (b e o k v : Bool),
      (0#16 ++ c ++ 0#3 ++ BitVec.ofBool v ++ BitVec.ofBool k ++ BitVec.ofBool o ++ BitVec.ofBool e ++ BitVec.ofBool b :
        BitVec (16 + 8 + 3 + 1 + 1 + 1 + 1 + 1)) =
      BitVec.ofNat 32 (b.toNat + 2 * e.toNat + 4 * o.toNat + 8 * k.toNat + 16 * v.toNat + 256 * c.toNat) := by
    intro c
    have := c.isLt
    intro b e o k v
    apply BitVec.eq_of_toNat_eq
    cases b <;> cases e <;> cases o <;> cases k <;> cases v <;> revert c <;> decide
  exact hc ..

/-- The registers that are no words of an array, by offset (20_memory.md R62). -/
def mapRegs : List Reg :=
  [.cmd, .status, .inlen, .outlen, .gfA, .gfB, .gfP, .shift, .vklen, .vkidx, .h0, .h1, .h2, .h3, .mlenLo, .mlenHi,
    .p, .q, .e, .nLo, .nHi, .phiLo, .phiHi, .dLo, .dHi, .xLo, .xHi, .yLo, .yHi, .mLo, .mHi, .rLo, .rHi, .keylen, .nr]

/-- The list that claims use is the register map of the machine, offset by offset. -/
theorem idleReads_eq (s : State) :
    (idleReads s).map (fun c => (c.1, BitVec.ofNat 32 c.2)) = mapRegs.map fun g => (g.offset, readReg g s) := by
  simp only [mapRegs, idleReads, readReg, Reg.offset, List.map_cons, List.map_nil, List.map_append, statusWord_eq,
    loWord_eq, hiWord_eq, BitVec.ofNat_toNat, BitVec.setWidth_eq]
  rfl

/-- What a claim says of a register's offset is what the machine reads there. -/
theorem readReg_of_idleReads {s : State} {off n : Nat} (h : (off, n) ∈ idleReads s) :
    ∃ g : Reg, off = g.offset ∧ readReg g s = BitVec.ofNat 32 n := by
  have hm := List.mem_map_of_mem (f := fun c => (c.1, BitVec.ofNat 32 c.2)) h
  rw [idleReads_eq] at hm
  obtain ⟨g, -, hg⟩ := List.mem_map.1 hm
  exact ⟨g, (Prod.mk.inj hg).1.symm, (Prod.mk.inj hg).2⟩

/-! ## What a command can write -/

/-- No command stops (60_exceptions.md R259). -/
theorem exec_next (i : Instr) (s : State) : ∃ t, exec i s = .next t := by
  cases i <;>
    simp only [exec, execNop, execClrst, execGfMul, execCaesEnc, execCaesDec, execVigKey, execVigEnc, execVigDec,
      execB64Enc, execB64Dec, execMd5Init, execMd5Update, execMd5Final, execAesKeyexp, execAesLoad, execAesStore,
      execAesAddrk, execAesSubbytes, execAesInvsubbytes, execAesShiftrows, execAesInvshiftrows, execAesMixcolumns,
      execAesInvmixcolumns, execAesEnc, execAesDec, execRsaKeygen, execRsaEnc, execRsaDec, execRsaModexp,
      execRsaModinv, mapInput, vigRun, transformState, rsaPower]
  all_goals
    repeat' split
    all_goals exact ⟨_, rfl⟩

/-- Everything any command can do: the three writes of a failing completion, or BUSY and the registers named here. -/
theorem exec_frame {i : Instr} {s t : State} (h : exec i s = .next t) :
    (∃ c, c ≠ .malformedCiphertext ∧ t = fail c s) ∨
      t = { s with
        busy := false, ovr := t.ovr, kvalid := t.kvalid, vkvalid := t.vkvalid, outlen := t.outlen, gfP := t.gfP,
        vklen := t.vklen, vkidx := t.vkidx, h0 := t.h0, h1 := t.h1, h2 := t.h2, h3 := t.h3, mlen := t.mlen, n := t.n,
        phi := t.phi, d := t.d, r := t.r, nr := t.nr, mem := t.mem, draws := t.draws } := by
  cases i <;>
    simp only [exec, execNop, execClrst, execGfMul, execCaesEnc, execCaesDec, execVigKey, execVigEnc, execVigDec,
      execB64Enc, execB64Dec, execMd5Init, execMd5Update, execMd5Final, execAesKeyexp, execAesLoad, execAesStore,
      execAesAddrk, execAesSubbytes, execAesInvsubbytes, execAesShiftrows, execAesInvshiftrows, execAesMixcolumns,
      execAesInvmixcolumns, execAesEnc, execAesDec, execRsaKeygen, execRsaEnc, execRsaDec, execRsaModexp,
      execRsaModinv, mapInput, vigRun, transformState, rsaPower] at h
  all_goals
    repeat' split at h
    all_goals
      first
      | (cases h; exact .inl ⟨_, by decide, rfl⟩)
      | (cases h; exact .inr rfl)

end Sys2Proof.Machine
end

