-- ==== Sys2Proof/Laws/PerInstr.lean ====
section
/-! SUPPORT. Laws about every command as syntax, one lemma per constructor of Instr. -/

namespace Sys2Proof.Laws

/-- The fields of a well-formed command's word are its OP value, its ARG value, and 0 in RSV (30_encoding.md R91,
R94, R98). -/
def EncodeFields.Statement (i : Instr) : Prop :=
  i.wellFormed = true →
    opField (encode i) = i.op ∧ argField (encode i) = BitVec.ofNat 8 i.arg ∧ rsvField (encode i) = 0

theorem EncodeFields.nop : EncodeFields.Statement .nop := fun _ => by decide
theorem EncodeFields.clrst : EncodeFields.Statement .clrst := fun _ => by decide
theorem EncodeFields.gfMul : EncodeFields.Statement .gfMul := fun _ => by decide
theorem EncodeFields.caesEnc : EncodeFields.Statement .caesEnc := fun _ => by decide
theorem EncodeFields.caesDec : EncodeFields.Statement .caesDec := fun _ => by decide
theorem EncodeFields.vigKey : EncodeFields.Statement .vigKey := fun _ => by decide
theorem EncodeFields.vigEnc : EncodeFields.Statement .vigEnc := fun _ => by decide
theorem EncodeFields.vigDec : EncodeFields.Statement .vigDec := fun _ => by decide
theorem EncodeFields.b64Enc : EncodeFields.Statement .b64Enc := fun _ => by decide
theorem EncodeFields.b64Dec : EncodeFields.Statement .b64Dec := fun _ => by decide
theorem EncodeFields.md5Init : EncodeFields.Statement .md5Init := fun _ => by decide
theorem EncodeFields.md5Update : EncodeFields.Statement .md5Update := fun _ => by decide
theorem EncodeFields.md5Final : EncodeFields.Statement .md5Final := fun _ => by decide
theorem EncodeFields.aesKeyexp : EncodeFields.Statement .aesKeyexp := fun _ => by decide
theorem EncodeFields.aesLoad : EncodeFields.Statement .aesLoad := fun _ => by decide
theorem EncodeFields.aesStore : EncodeFields.Statement .aesStore := fun _ => by decide
set_option maxRecDepth 8000 in
theorem EncodeFields.aesAddrk (r : Nat) : EncodeFields.Statement (.aesAddrk r) := by
  intro h
  have hr : r ≤ 255 := of_decide_eq_true h
  have key : ∀ k : Fin 256, opField (encode (.aesAddrk k.val)) = 0x53 ∧
      argField (encode (.aesAddrk k.val)) = BitVec.ofNat 8 k.val ∧ rsvField (encode (.aesAddrk k.val)) = 0 := by decide
  exact key ⟨r, by omega⟩
theorem EncodeFields.aesSubbytes : EncodeFields.Statement .aesSubbytes := fun _ => by decide
theorem EncodeFields.aesInvsubbytes : EncodeFields.Statement .aesInvsubbytes := fun _ => by decide
theorem EncodeFields.aesShiftrows : EncodeFields.Statement .aesShiftrows := fun _ => by decide
theorem EncodeFields.aesInvshiftrows : EncodeFields.Statement .aesInvshiftrows := fun _ => by decide
theorem EncodeFields.aesMixcolumns : EncodeFields.Statement .aesMixcolumns := fun _ => by decide
theorem EncodeFields.aesInvmixcolumns : EncodeFields.Statement .aesInvmixcolumns := fun _ => by decide
theorem EncodeFields.aesEnc : EncodeFields.Statement .aesEnc := fun _ => by decide
theorem EncodeFields.aesDec : EncodeFields.Statement .aesDec := fun _ => by decide
theorem EncodeFields.rsaKeygen : EncodeFields.Statement .rsaKeygen := fun _ => by decide
theorem EncodeFields.rsaEnc : EncodeFields.Statement .rsaEnc := fun _ => by decide
theorem EncodeFields.rsaDec : EncodeFields.Statement .rsaDec := fun _ => by decide
theorem EncodeFields.rsaModexp : EncodeFields.Statement .rsaModexp := fun _ => by decide
theorem EncodeFields.rsaModinv : EncodeFields.Statement .rsaModinv := fun _ => by decide

end Sys2Proof.Laws
end

