-- ==== Sys2Proof/Laws/Decode.lean ====
section
/-! SUPPORT. The laws of the command encoding, each unfolded once. -/

namespace Sys2Proof

/-- The opcode map reads each command's OP and ARG back. -/
theorem opMap_op (i : Instr) : opMap i.op i.arg = some i := by cases i <;> rfl

/-- What the opcode map finds has that OP value, and AES_ADDRK is the one command whose ARG it keeps. -/
theorem opMap_some {op : Byte} {k : Nat} {i : Instr} (h : opMap op k = some i) :
    i.op = op ∧ (op = opAddrk → i = .aesAddrk k) ∧ (op ≠ opAddrk → i.arg = 0) := by
  unfold opMap at h
  split at h <;> first
    | (cases h; done)
    | (next he =>
        cases h
        refine ⟨BitVec.eq_of_toNat_eq he.symm, fun h => ?_, fun h => ?_⟩ <;>
          first
            | rfl
            | (rw [h] at he; exact absurd he (by decide))
            | exact absurd (BitVec.eq_of_toNat_eq he) h)

/-- Everything the decoder accepts: RSV is 0, the map has the OP value, and ARG is 0 but for AES_ADDRK (R97). -/
theorem decode_ok_iff (w : Word) (i : Instr) :
    decode w = .ok i ↔
      rsvField w = 0 ∧ opMap (opField w) (argField w).toNat = some i ∧ (argField w = 0 ∨ opField w = opAddrk) := by
  unfold decode
  by_cases hr : rsvField w = 0
  · rw [if_neg (not_not.2 hr)]
    cases hm : opMap (opField w) (argField w).toNat with
    | none => exact ⟨fun h => (nomatch h), fun h => (nomatch h.2.1)⟩
    | some j =>
      simp only
      by_cases ha : argField w = 0 ∨ opField w = opAddrk
      · rw [if_neg (by tauto)]
        exact ⟨fun h => by cases h; exact ⟨hr, rfl, ha⟩, fun h => by cases h.2.1; rfl⟩
      · rw [if_pos (by tauto)]
        exact ⟨fun h => (nomatch h), fun h => absurd h.2.2 ha⟩
  · rw [if_pos hr]
    exact ⟨fun h => (nomatch h), fun h => absurd h.1 hr⟩

/-- A word is its three fields. -/
theorem word_eq_of_fields {v w : Word} (h1 : opField v = opField w) (h2 : argField v = argField w)
    (h3 : rsvField v = rsvField w) : v = w := by
  apply BitVec.eq_of_getLsbD_eq
  intro i hi
  have e1 := congrArg (fun x => x.getLsbD i) h1
  have e2 := congrArg (fun x => x.getLsbD (i - 8)) h2
  have e3 := congrArg (fun x => x.getLsbD (i - 16)) h3
  simp only [opField, argField, rsvField, BitVec.getLsbD_extractLsb'] at e1 e2 e3
  rcases Nat.lt_or_ge i 8 with h | h
  · simpa [h] using e1
  · rcases Nat.lt_or_ge i 16 with h' | h'
    · have a1 : i - 8 < 8 := by omega
      have a2 : 8 + (i - 8) = i := by omega
      simpa [a1, a2] using e2
    · have a1 : i - 16 < 16 := by omega
      have a2 : 16 + (i - 16) = i := by omega
      simpa [a1, a2] using e3

end Sys2Proof
end

