-- ==== Sys2Proof/Laws/Rsa.lean ====
section
/-! SUPPORT. The arithmetic of the RSA unit computes the exact integers of 45_rsa.md R232 and R234. -/

namespace Sys2Proof.Machine

/-! ## Modular exponentiation (R232) -/

theorem modexpLoop_eq (m k r b y : Nat) (hr : r % m = r) (hy : y < 2 ^ k) :
    modexpLoop m k r b y = r * b ^ y % m := by
  induction k generalizing r b y with
  | zero =>
    obtain rfl : y = 0 := by simpa using hy
    simp [modexpLoop, hr]
  | succ k ih =>
    have hy2 : y / 2 < 2 ^ k := by rw [Nat.pow_succ] at hy; omega
    have hsq : (b * b % m) ^ (y / 2) ≡ b ^ (2 * (y / 2)) [MOD m] := by
      rw [Nat.pow_mul, pow_two]
      exact (Nat.mod_modEq _ _).pow _
    rw [modexpLoop]
    by_cases hodd : y % 2 = 1
    · rw [if_pos hodd, ih _ _ _ (Nat.mod_mod _ _) hy2]
      have hb : b ^ y = b * b ^ (2 * (y / 2)) := by
        rw [← Nat.pow_succ']
        congr 1
        omega
      rw [hb, ← Nat.mul_assoc]
      exact (Nat.mod_modEq _ _).mul hsq
    · rw [if_neg hodd, ih _ _ _ hr hy2]
      have hb : b ^ y = b ^ (2 * (y / 2)) := by congr 1; omega
      rw [hb]
      exact (Nat.ModEq.refl r).mul hsq

/-- Square-and-multiply gives the power (R232). -/
theorem modexp_eq (x y m : Nat) (hy : y < 2 ^ 64) : modexp x y m = x ^ y % m := by
  rw [modexp, modexpLoop_eq _ Config.rsaW _ _ _ (Nat.mod_mod _ _) hy]
  exact ((Nat.mod_modEq 1 m).mul ((Nat.mod_modEq x m).pow y)).trans (by rw [Nat.one_mul])

/-! ## Modular inverse (R234) -/

/-- The second of two remainders of the Euclidean algorithm is less than half. -/
theorem mod_mod_lt_half {g h j : Nat} (hh : h < 2 ^ (j + 1)) (hr : 0 < g % h) (h0 : 0 < h) : h % (g % h) < 2 ^ j := by
  have h1 := Nat.mod_lt g h0
  rw [Nat.pow_succ] at hh
  rcases Nat.lt_or_ge (h / 2) (g % h) with hc | hc
  · have : h % (g % h) = h - g % h := by
      rw [Nat.mod_eq_sub_mod h1.le, Nat.mod_eq_of_lt (by omega)]
    omega
  · have := Nat.mod_lt h hr
    omega

/-- The loop ends with a Bézout coefficient of the greatest common divisor. -/
theorem euclidLoop_spec (a m : Int) (j k g h : Nat) (s t : Int) (hk : 2 * j + 1 ≤ k) (hh : h < 2 ^ j)
    (hs : s * a ≡ g [ZMOD m]) (ht : t * a ≡ h [ZMOD m]) :
    euclidLoop k g h s t * a ≡ (Nat.gcd g h : Nat) [ZMOD m] := by
  induction j generalizing k g h s t with
  | zero =>
    obtain rfl : h = 0 := by simpa using hh
    obtain ⟨k, rfl⟩ : ∃ k', k = k' + 1 := ⟨k - 1, by omega⟩
    simpa [euclidLoop] using hs
  | succ j ih =>
    obtain ⟨k, rfl⟩ : ∃ k', k = k' + 1 + 1 := ⟨k - 2, by omega⟩
    rw [euclidLoop]
    by_cases h0 : h = 0
    · subst h0
      simpa using hs
    · rw [if_neg h0, euclidLoop]
      have hgcd : Nat.gcd g h = Nat.gcd h (g % h) := by rw [Nat.gcd_comm g h, Nat.gcd_rec h g, Nat.gcd_comm]
      have ht2 : (s - (g / h : Nat) * t) * a ≡ (g % h : Nat) [ZMOD m] := by
        have : ((g % h : Nat) : Int) = g - (g / h : Nat) * h := by
          have := Nat.div_add_mod g h
          push_cast
          have : (g : Int) = h * (g / h) + g % h := by exact_mod_cast this.symm
          linarith [mul_comm (h : Int) ((g : Int) / h)]
        rw [this, sub_mul, mul_assoc]
        exact hs.sub ((Int.ModEq.refl _).mul ht)
      by_cases hr : g % h = 0
      · rw [if_pos hr, hgcd, hr, Nat.gcd_zero_right]
        exact ht
      · rw [if_neg hr]
        have hgcd2 : Nat.gcd h (g % h) = Nat.gcd (g % h) (h % (g % h)) := by
          rw [Nat.gcd_comm h, Nat.gcd_rec, Nat.gcd_comm]
        rw [hgcd, hgcd2]
        refine ih k _ _ _ _ (by omega) (mod_mod_lt_half hh (by omega) (by omega)) ht2 ?_
        have : ((h % (g % h) : Nat) : Int) = h - (h / (g % h) : Nat) * (g % h : Nat) := by
          have := Nat.div_add_mod h (g % h)
          have : (h : Int) = (g % h : Nat) * (h / (g % h) : Nat) + (h % (g % h) : Nat) := by exact_mod_cast this.symm
          linarith [mul_comm ((g % h : Nat) : Int) ((h / (g % h) : Nat) : Int)]
        rw [this, sub_mul, mul_assoc]
        exact ht.sub ((Int.ModEq.refl _).mul ht2)

/-- The extended Euclidean algorithm gives the inverse in `[0, m)` (R234). -/
theorem modinv_spec {a m : Nat} (hm : 0 < m) (hm64 : m < 2 ^ 64) (hg : Nat.gcd (a % m) m = 1) :
    modinv a m < m ∧ a * modinv a m % m = 1 % m := by
  have hmz : (0 : Int) < m := by exact_mod_cast hm
  have hspec : euclidLoop euclidSteps m (a % m) 0 1 * (a : Int) ≡ (Nat.gcd m (a % m) : Nat) [ZMOD m] := by
    refine euclidLoop_spec a m 64 euclidSteps m (a % m) 0 1 (by decide)
      (lt_trans (Nat.mod_lt _ hm) hm64) ?_ ?_
    · simp [Int.ModEq]
    · rw [one_mul, Int.ModEq]
      push_cast
      rw [Int.emod_emod_of_dvd _ dvd_rfl]
  rw [Nat.gcd_comm, hg] at hspec
  have hnn := Int.emod_nonneg (euclidLoop euclidSteps m (a % m) 0 1) hmz.ne'
  have hlt := Int.emod_lt_of_pos (euclidLoop euclidSteps m (a % m) 0 1) hmz
  have hcast : ((modinv a m : Nat) : Int) = euclidLoop euclidSteps m (a % m) 0 1 % m := by
    rw [modinv, Int.toNat_of_nonneg hnn]
  refine ⟨by exact_mod_cast hcast ▸ hlt, ?_⟩
  have : ((a * modinv a m : Nat) : Int) ≡ ((1 : Nat) : Int) [ZMOD m] := by
    push_cast
    rw [hcast, mul_comm]
    exact ((Int.mod_modEq _ _).mul_right _).trans (by exact_mod_cast hspec)
  exact (Int.natCast_modEq_iff).1 this

end Sys2Proof.Machine
end

