-- ==== Sys2Proof/Tests/Slice0.lean ====
section
/-! SUPPORT. The model's own tests. Expected values come from spec/95_test_vectors.md and from the encodings of
30_encoding.md; a comment names the table. After them, for every statement with hypotheses, a witness that something meets
them. -/

namespace Sys2Proof.Tests

open Sys2Proof Sys2Proof.Machine

set_option maxRecDepth 100000

/-! ## Helpers -/

/-- Bytes from numbers. -/
def bytes (l : List Nat) : List Byte := l.map (BitVec.ofNat 8)

/-- Bytes of a text. -/
def str (s : String) : List Byte := s.toList.map fun c => BitVec.ofNat 8 c.toNat

/-- Reset, with bytes stored at an offset. -/
def stored (off : Nat) (bs : List Byte) : State := { State.reset with mem := writeBytes [] off bs }

/-- Reset, with an input in IBUF and its length in INLEN. -/
def input (bs : List Byte) : State := { stored 0x1000 bs with inlen := BitVec.ofNat 13 bs.length }

/-- The state after one step that runs a command word. -/
def run1 (w : Nat) (s : State) : State :=
  match step (s.withFetchWord 32 w) with
  | .next t => t
  | .fault _ => State.reset
  | .refused _ => State.reset

/-- `OBUF[0..OUTLEN-1]`. -/
def output (s : State) : List Byte := readBytes s.mem 0x2000 s.outlen.toNat

/-- `STATE[0..15]`. -/
def block (s : State) : List Byte := readBytes s.mem 0x0130 16

/-- A 32-bit host write. -/
def wr (off v : Nat) : Input := .access ⟨4, BitVec.ofNat 14 off, .write (BitVec.ofNat 32 v)⟩

/-- A 32-bit host read. -/
def rd (off : Nat) : Input := .access ⟨4, BitVec.ofNat 14 off, .read⟩

/-- The state after a list of events on a state that has none. -/
def play (s : State) : List Input → State
  | [] => s
  | i :: is =>
    match step { s with inputs := [i] } with
    | .next t => play t is
    | .fault _ => State.reset
    | .refused _ => State.reset

/-! ## Well-formedness -/

theorem test_wellFormed_refuses_round_256 : (Instr.aesAddrk 256).wellFormed = false := by decide

theorem test_wellFormed_accepts_round_255 : (Instr.aesAddrk 255).wellFormed = true := by decide

/-! ## Decoding (30_encoding.md R95, R96; 95_test_vectors.md 2.1) -/

/-- AES_ADDRK 10, bit by bit: RSV, ARG, OP (R91, R98). -/
theorem test_decode_bits_aesAddrk :
    decode 0b0000000000000000_00001010_01010011 = .ok (.aesAddrk 10) := by decide

/-- One word of each other unit, bit by bit (R91, R95). -/
theorem test_decode_bits_units :
    decode 0b0000000000000000_00000000_00000001 = .ok .clrst ∧ decode 0b0000000000000000_00000000_00010000 = .ok .gfMul ∧
    decode 0b0000000000000000_00000000_00100010 = .ok .vigKey ∧ decode 0b0000000000000000_00000000_00110001 = .ok .b64Dec ∧
    decode 0b0000000000000000_00000000_01000010 = .ok .md5Final ∧
    decode 0b0000000000000000_00000000_01100100 = .ok .rsaModinv := by decide

theorem test_decode_control :
    decode 0x00000000 = .ok .nop ∧ decode 0x00000001 = .ok .clrst := by decide

theorem test_decode_gf :
    decode 0x00000010 = .ok .gfMul := by decide

theorem test_decode_classical :
    decode 0x00000020 = .ok .caesEnc ∧ decode 0x00000021 = .ok .caesDec ∧ decode 0x00000022 = .ok .vigKey ∧
    decode 0x00000023 = .ok .vigEnc ∧ decode 0x00000024 = .ok .vigDec := by decide

theorem test_decode_base64 :
    decode 0x00000030 = .ok .b64Enc ∧ decode 0x00000031 = .ok .b64Dec := by decide

theorem test_decode_md5 :
    decode 0x00000040 = .ok .md5Init ∧ decode 0x00000041 = .ok .md5Update ∧ decode 0x00000042 = .ok .md5Final := by decide

theorem test_decode_aes :
    decode 0x00000050 = .ok .aesKeyexp ∧ decode 0x00000051 = .ok .aesLoad ∧ decode 0x00000052 = .ok .aesStore ∧
    decode 0x00000053 = .ok (.aesAddrk 0) ∧ decode 0x00000054 = .ok .aesSubbytes ∧
    decode 0x00000055 = .ok .aesInvsubbytes ∧ decode 0x00000056 = .ok .aesShiftrows ∧
    decode 0x00000057 = .ok .aesInvshiftrows ∧ decode 0x00000058 = .ok .aesMixcolumns ∧
    decode 0x00000059 = .ok .aesInvmixcolumns ∧ decode 0x0000005A = .ok .aesEnc ∧ decode 0x0000005B = .ok .aesDec := by decide

theorem test_decode_rsa :
    decode 0x00000060 = .ok .rsaKeygen ∧ decode 0x00000061 = .ok .rsaEnc ∧ decode 0x00000062 = .ok .rsaDec ∧
    decode 0x00000063 = .ok .rsaModexp ∧ decode 0x00000064 = .ok .rsaModinv := by decide

theorem test_decode_refuses :
    decode 0x00000002 = .error .opReserved ∧ decode 0x0000005C = .error .opReserved ∧ decode 0x000000FF = .error .opReserved ∧
    decode 0x00000100 = .error .argNonzero ∧ decode 0x00000A5A = .error .argNonzero ∧ decode 0x00010000 = .error .rsvNonzero ∧
    decode 0x80000053 = .error .rsvNonzero := by decide

theorem test_decodeTableWord : decodeTableWord 32 0x00000A53 = some (.aesAddrk 10) ∧ decodeTableWord 32 0x00000065 = none := by
  decide

/-- An illegal word completes with IllegalCommand and no other effect (2.1). -/
theorem test_illegal_word : run1 0x00000002 State.reset = { State.reset with pending := 2, err := true, errCode := 0x01 } := by
  decide

/-! ## Commands, one step each -/

/-- 2.1. -/
theorem test_nop : statusWord (run1 0x00 State.reset) = 0x00000000 := by decide

/-- 2.8: CLRST clears OVR. -/
theorem test_clrst : statusWord (run1 0x01 { State.reset with ovr := true }) = 0x00000000 := by decide

/-- 2.2. -/
theorem test_gfMul : (run1 0x10 { State.reset with gfA := 0x57, gfB := 0x83 }).gfP = 0xC1 := by decide

theorem test_gfMul_reduces : (run1 0x10 { State.reset with gfA := 0x80, gfB := 0x02 }).gfP = 0x1B := by decide

/-- 2.3. -/
theorem test_caesEnc : output (run1 0x20 (input (str "xyz XYZ"))) = str "abc ABC" := by decide

theorem test_caesEnc_next_to_letters :
    output (run1 0x20 (input (bytes [0x40, 0x5B, 0x60, 0x7B, 0xE9, 0x00]))) = bytes [0x40, 0x5B, 0x60, 0x7B, 0xE9, 0x00] := by
  decide

theorem test_caesDec : output (run1 0x21 { input (str "abc") with shift := 255 }) = str "fgh" := by decide

/-- The keyword of 2.3, not yet normalised. -/
def rawKeyword : State := { stored 0x0060 (str "le-mon 1") with vklen := 8 }

theorem test_vigKey :
    (run1 0x22 rawKeyword).vklen = 5 ∧ statusWord (run1 0x22 rawKeyword) = 0x00000010 ∧
    readBytes (run1 0x22 rawKeyword).mem 0x0060 9 = str "LEMON" ++ bytes [0, 0, 0, 0] := by decide

theorem test_vigKey_no_letter :
    statusWord (run1 0x22 { stored 0x0060 (str "123 -!") with vklen := 6 }) = 0x00000302 := by decide

/-- The state after VIG_KEY of 2.3, with an input. -/
def keyed (bs : List Byte) : State :=
  { run1 0x22 rawKeyword with
    mem := writeBytes (run1 0x22 rawKeyword).mem 0x1000 bs, inlen := BitVec.ofNat 13 bs.length }

theorem test_vigEnc :
    output (run1 0x23 (keyed (str "Attack at dawn!"))) = str "Lxfopv ef rnhr!" ∧
    (run1 0x23 (keyed (str "Attack at dawn!"))).vkidx = 2 := by decide

theorem test_vigEnc_keyword_before_length : statusWord (run1 0x23 { State.reset with inlen := 5000 }) = 0x00000302 := by decide

theorem test_vigDec : output (run1 0x24 (keyed (str "ATTACKATDAWN"))) = str "PPHMPZWHPNLJ" := by decide

/-- 2.4 and part 1, S10. -/
theorem test_b64Enc : output (run1 0x30 (input (str "Man"))) = str "TWFu" := by decide

theorem test_b64Enc_pads : output (run1 0x30 (input (str "fo"))) = str "Zm8=" := by decide

theorem test_b64Dec_pad_inside : output (run1 0x31 (input (str "TW=u"))) = str "Mk" := by decide

theorem test_b64Dec_bad_character : statusWord (run1 0x31 (input (str "TW@u"))) = 0x00000402 := by decide

/-- 2.5. -/
theorem test_md5Init : (run1 0x40 { State.reset with h0 := 0x12345678, mlen := 9 }).h0 = 0x67452301 := by decide

theorem test_md5Update :
    chain (run1 0x41 (input (List.replicate 64 0x61))) = ⟨0x89D4FF56, 0x125CD962, 0x69CADE33, 0x0033E325⟩ ∧
    (run1 0x41 (input (List.replicate 64 0x61))).mlen = 64 := by decide

theorem test_md5Update_length : statusWord (run1 0x41 (input (str "abc"))) = 0x00000602 := by decide

theorem test_md5Final :
    output (run1 0x42 (input (str "abc"))) =
      bytes [0x90, 0x01, 0x50, 0x98, 0x3C, 0xD2, 0x4F, 0xB0, 0xD6, 0x96, 0x3F, 0x7D, 0x28, 0xE1, 0x7F, 0x72] := by decide

/-- Two padding blocks. -/
theorem test_md5Final_56 :
    chain (run1 0x42 (input (List.replicate 56 0x61))) = ⟨0xC78A0C3B, 0xB028F803, 0x70196C4C, 0x1872D106⟩ := by decide

/-- The key of FIPS-197 Appendix A.1 (2.6). -/
def key128 : State :=
  { stored 0x0100 (bytes
      [0x2B, 0x7E, 0x15, 0x16, 0x28, 0xAE, 0xD2, 0xA6, 0xAB, 0xF7, 0x15, 0x88, 0x09, 0xCF, 0x4F, 0x3C]) with
    keylen := 16 }

theorem test_aesKeyexp :
    readBytes (run1 0x50 key128).mem 0x04A0 17 =
      bytes [0xD0, 0x14, 0xF9, 0xA8, 0xC9, 0xEE, 0x25, 0x89, 0xE1, 0x3F, 0x0C, 0xC8, 0xB6, 0x63, 0x0C, 0xA6, 0x00] ∧
    (run1 0x50 key128).nr = 10 := by decide

/-- w[8] .. w[12] of the 32-byte key of FIPS-197 Appendix A.3, where SubWord stands without RotWord (2.6). -/
theorem test_aesKeyexp_256 :
    readBytes (run1 0x50 { stored 0x0100 (bytes
      [0x60, 0x3D, 0xEB, 0x10, 0x15, 0xCA, 0x71, 0xBE, 0x2B, 0x73, 0xAE, 0xF0, 0x85, 0x7D, 0x77, 0x81,
        0x1F, 0x35, 0x2C, 0x07, 0x3B, 0x61, 0x08, 0xD7, 0x2D, 0x98, 0x10, 0xA3, 0x09, 0x14, 0xDF, 0xF4])
      with keylen := 32 }).mem 0x0420 20 =
      bytes [0x9B, 0xA3, 0x54, 0x11, 0x8E, 0x69, 0x25, 0xAF, 0xA5, 0x1A, 0x8B, 0x5F, 0x20, 0x67, 0xFC, 0xDE, 0xA8, 0xB0, 0x9C,
        0x1A] := by decide

theorem test_aesLoad :
    block (run1 0x51 (input (str "abc"))) =
      bytes [0x61, 0x62, 0x63, 0x0D, 0x0D, 0x0D, 0x0D, 0x0D, 0x0D, 0x0D, 0x0D, 0x0D, 0x0D, 0x0D, 0x0D, 0x0D] := by decide

theorem test_aesLoad_length : statusWord (run1 0x51 { State.reset with inlen := 17 }) = 0x00000602 := by decide

/-- A block in STATE. -/
def inState (l : List Nat) : State := stored 0x0130 (bytes l)

theorem test_aesStore :
    output (run1 0x52 (inState
      [0x39, 0x25, 0x84, 0x1D, 0x02, 0xDC, 0x09, 0xFB, 0xDC, 0x11, 0x85, 0x97, 0x19, 0x6A, 0x0B, 0x32])) =
      bytes [0x39, 0x25, 0x84, 0x1D, 0x02, 0xDC, 0x09, 0xFB, 0xDC, 0x11, 0x85, 0x97, 0x19, 0x6A, 0x0B, 0x32] := by decide

/-- Round key 1 of the table of 2.6, on a schedule already expanded. -/
def expanded : State :=
  { stored 0x0410 (bytes
      [0xA0, 0xFA, 0xFE, 0x17, 0x88, 0x54, 0x2C, 0xB1, 0x23, 0xA3, 0x39, 0x39, 0x2A, 0x6C, 0x76, 0x05]) with
    nr := 10, kvalid := true }

theorem test_aesAddrk :
    block (run1 0x153 expanded) =
      bytes [0xA0, 0xFA, 0xFE, 0x17, 0x88, 0x54, 0x2C, 0xB1, 0x23, 0xA3, 0x39, 0x39, 0x2A, 0x6C, 0x76, 0x05] := by decide

theorem test_aesAddrk_errors :
    statusWord (run1 0xB53 expanded) = 0x0000080A ∧ statusWord (run1 0x53 State.reset) = 0x00000702 := by decide

/-- The block 00 01 .. 0f of 2.6. -/
def ramp : State := stored 0x0130 (bytes (List.range 16))

theorem test_aesSubbytes :
    block (run1 0x54 ramp) =
      bytes [0x63, 0x7C, 0x77, 0x7B, 0xF2, 0x6B, 0x6F, 0xC5, 0x30, 0x01, 0x67, 0x2B, 0xFE, 0xD7, 0xAB, 0x76] := by decide

theorem test_aesInvsubbytes :
    block (run1 0x55 ramp) =
      bytes [0x52, 0x09, 0x6A, 0xD5, 0x30, 0x36, 0xA5, 0x38, 0xBF, 0x40, 0xA3, 0x9E, 0x81, 0xF3, 0xD7, 0xFB] := by decide

theorem test_aesShiftrows :
    block (run1 0x56 ramp) =
      bytes [0x00, 0x05, 0x0A, 0x0F, 0x04, 0x09, 0x0E, 0x03, 0x08, 0x0D, 0x02, 0x07, 0x0C, 0x01, 0x06, 0x0B] := by decide

theorem test_aesInvshiftrows :
    block (run1 0x57 ramp) =
      bytes [0x00, 0x0D, 0x0A, 0x07, 0x04, 0x01, 0x0E, 0x0B, 0x08, 0x05, 0x02, 0x0F, 0x0C, 0x09, 0x06, 0x03] := by decide

theorem test_aesMixcolumns :
    block (run1 0x58 (inState
      [0xD4, 0xBF, 0x5D, 0x30, 0xE0, 0xB4, 0x52, 0xAE, 0xB8, 0x41, 0x11, 0xF1, 0x1E, 0x27, 0x98, 0xE5])) =
      bytes [0x04, 0x66, 0x81, 0xE5, 0xE0, 0xCB, 0x19, 0x9A, 0x48, 0xF8, 0xD3, 0x7A, 0x28, 0x06, 0x26, 0x4C] := by decide

theorem test_aesInvmixcolumns :
    block (run1 0x59 (inState
      [0x04, 0x66, 0x81, 0xE5, 0xE0, 0xCB, 0x19, 0x9A, 0x48, 0xF8, 0xD3, 0x7A, 0x28, 0x06, 0x26, 0x4C])) =
      bytes [0xD4, 0xBF, 0x5D, 0x30, 0xE0, 0xB4, 0x52, 0xAE, 0xB8, 0x41, 0x11, 0xF1, 0x1E, 0x27, 0x98, 0xE5] := by decide

/-- FIPS-197 Appendix C.1 (2.6): the key 00 01 .. 0f. -/
def keyC1 (block : List Nat) : State :=
  { input (bytes block) with
    mem := writeBytes (input (bytes block)).mem 0x0100 (bytes (List.range 16)), keylen := 16 }

theorem test_aesEnc :
    output (run1 0x5A (keyC1
      [0x00, 0x11, 0x22, 0x33, 0x44, 0x55, 0x66, 0x77, 0x88, 0x99, 0xAA, 0xBB, 0xCC, 0xDD, 0xEE, 0xFF])) =
      bytes [0x69, 0xC4, 0xE0, 0xD8, 0x6A, 0x7B, 0x04, 0x30, 0xD8, 0xCD, 0xB7, 0x80, 0x70, 0xB4, 0xC5, 0x5A] := by decide

theorem test_aesEnc_key_before_length :
    statusWord (run1 0x5A { State.reset with keylen := 10, inlen := 17 }) = 0x00000202 := by decide

theorem test_aesDec :
    output (run1 0x5B (keyC1
      [0x69, 0xC4, 0xE0, 0xD8, 0x6A, 0x7B, 0x04, 0x30, 0xD8, 0xCD, 0xB7, 0x80, 0x70, 0xB4, 0xC5, 0x5A])) =
      bytes [0x00, 0x11, 0x22, 0x33, 0x44, 0x55, 0x66, 0x77, 0x88, 0x99, 0xAA, 0xBB, 0xCC, 0xDD, 0xEE, 0xFF] := by decide

theorem test_aesDec_length : statusWord (run1 0x5B { State.reset with keylen := 16, inlen := 15 }) = 0x00000602 := by decide

/-- 2.7. -/
theorem test_rsaKeygen :
    (run1 0x60 State.reset).n = 3233 ∧ (run1 0x60 State.reset).phi = 3120 ∧ (run1 0x60 State.reset).d = 2753 := by decide

theorem test_rsaKeygen_errors :
    statusWord (run1 0x60 { State.reset with p := 103 }) = 0x00000A02 ∧
    statusWord (run1 0x60 { State.reset with p := 1 }) = 0x00000B02 := by decide

theorem test_rsaEnc : (run1 0x61 { State.reset with x := 65, n := 3233 }).r = 2790 := by decide

theorem test_rsaEnc_no_key : statusWord (run1 0x61 State.reset) = 0x00000902 := by decide

/-- `X ≥ N`: no error, and one draw (U1). -/
theorem test_rsaDec_large :
    statusWord (run1 0x62 { State.reset with x := 9786, n := 3233, d := 2753 }) = 0x00000000 ∧
    (run1 0x62 { State.reset with x := 9786, n := 3233, d := 2753 }).draws = 1 := by decide

theorem test_rsaDec : (run1 0x62 { State.reset with x := 2790, n := 3233, d := 2753 }).r = 65 := by decide

theorem test_rsaModexp : (run1 0x63 { State.reset with x := 3, y := 200, m := 1000003 }).r = 333986 := by decide

theorem test_rsaModexp_corner : (run1 0x63 { State.reset with x := 0, y := 0, m := 5 }).r = 1 := by decide

theorem test_rsaModinv : (run1 0x64 { State.reset with x := 24, m := 7 }).r = 5 := by decide

theorem test_rsaModinv_none : statusWord (run1 0x64 { State.reset with x := 6, m := 9 }) = 0x00000A02 := by decide

/-! ## Bus, handshake and flags (2.8) -/

theorem test_read_e : (play State.reset [rd 0x00A8]).resp = some (.data 0x00000011 false) := by decide

theorem test_inlen_keeps_13_bits : (play State.reset [wr 0x0008 0xFFFFFFFF, rd 0x0008]).resp = some (.data 0x00001FFF false) := by
  decide

theorem test_obuf_is_read_only : (play State.reset [wr 0x2000 0x11223344]).mem = [] := by decide

theorem test_ibuf_byte_order : readBytes (play State.reset [wr 0x1000 0x11223344]).mem 0x1000 4 = bytes [0x44, 0x33, 0x22, 0x11] := by
  decide

/-- The two words of R of the wide key of 2.7, and the first word of a block in OBUF (2.6). -/
theorem test_read_words :
    (play { State.reset with r := 0x51658538A55429C0 } [rd 0x00E0]).resp = some (.data 0xA55429C0 false) ∧
    (play { State.reset with r := 0x51658538A55429C0 } [rd 0x00E4]).resp = some (.data 0x51658538 false) ∧
    (play (stored 0x2000 (bytes [0x39, 0x25, 0x84, 0x1D])) [rd 0x2000]).resp = some (.data 0x1D842539 false) := by decide

/-- Unmapped, misaligned and narrow accesses. -/
theorem test_bus_errors :
    play State.reset [rd 0x0010] = { State.reset with resp := some (.data 0 Config.busErrResp) } ∧
    play State.reset [rd 0x0006] = { State.reset with resp := some (.data 0 Config.busErrResp) } ∧
    play State.reset [.access ⟨1, 0x1000, .write 0x41⟩] = { State.reset with resp := some (.done Config.busErrResp) } :=
  ⟨rfl, rfl, rfl⟩

theorem test_write_while_busy_is_dropped :
    (play State.reset [wr 0x0000 0x10, wr 0x0020 0x57, .engine]).gfA = 0x00 ∧
    statusWord (play State.reset [wr 0x0000 0x10, wr 0x0020 0x57, .engine]) = 0x00000004 := by decide

theorem test_write_after_the_step_is_stored :
    (play State.reset [wr 0x0000 0x10, .engine, wr 0x0020 0x57]).gfA = 0x57 ∧
    statusWord (play State.reset [wr 0x0000 0x10, .engine, wr 0x0020 0x57]) = 0x00000000 := by decide

theorem test_narrow_write_while_busy :
    (play State.reset [wr 0x0000 0x00, .access ⟨1, 0x1000, .write 0x41⟩]).ovr = false := by decide

theorem test_read_while_busy :
    (play State.reset [wr 0x0000 0x00, rd 0x0004]).resp = some (.data 0x00000001 false) ∧
    (play State.reset [wr 0x0000 0x00, rd 0x0080]).resp = some (.data (Config.busyRead 0) false) := ⟨by decide, rfl⟩

theorem test_key_write_clears_kvalid : (play expanded [wr 0x0100 0]).kvalid = false := by decide

/-- 2.9: reset in the middle of a command. -/
theorem test_reset_abandons_command :
    statusWord (play State.reset [wr 0x0000 0x10, .reset none]) = 0x00000000 ∧
    (play State.reset [wr 0x0040 9, .reset none]).shift = 3 := ⟨rfl, rfl⟩

/-! ## Witnesses

For every statement with hypotheses, a state and operands that meet them all; for a statement of several clauses, one for
each. Where the hypotheses speak of a state after another command, the witness gives that state too. -/

/-- A busy core that holds a command word. -/
def busyWith (w : Nat) (ins : List Input) : State :=
  { State.reset with busy := true, pending := BitVec.ofNat 32 w, inputs := ins }

/-- An idle core with events to come. -/
def idleWith (ins : List Input) : State := { State.reset with inputs := ins }

/-- Reset with INLEN and KEYLEN. -/
def lens (n k : Nat) : State := { State.reset with inlen := BitVec.ofNat 13 n, keylen := BitVec.ofNat 6 k }

/-- The state a command leaves. -/
def after (i : Instr) (s : State) : State :=
  match exec i s with
  | .next t => t
  | .fault _ => s
  | .refused _ => s

theorem exec_after (i : Instr) (s : State) : exec i s = .next (after i s) := by
  obtain ⟨t, ht⟩ := exec_next i s
  simp only [after, ht]

/-- The host copies the output of `t` to the input, other registers being those of `s`. -/
def fedBack (s t : State) : State := { s with mem := writeBytes s.mem 0x1000 (output t), inlen := t.outlen }

theorem next_wr (off v : Nat) (h : off < 2 ^ 14) (s : State) (rest : List Input) (hs : s.inputs = wr off v :: rest) :
    NextAccess s off (.write (BitVec.ofNat 32 v)) rest :=
  ⟨BitVec.ofNat 14 off, by rw [BitVec.toNat_ofNat, Nat.mod_eq_of_lt h], hs⟩

theorem next_rd (off : Nat) (h : off < 2 ^ 14) (s : State) (rest : List Input) (hs : s.inputs = rd off :: rest) :
    NextAccess s off .read rest :=
  ⟨BitVec.ofNat 14 off, by rw [BitVec.toNat_ofNat, Nat.mod_eq_of_lt h], hs⟩

theorem mapped_ends : MappedOffset 0x0000 ∧ MappedOffset 0x0004 ∧ MappedOffset 0x000C ∧ MappedOffset 0x0020 ∧
    MappedOffset 0x0080 ∧ MappedOffset 0x04EC ∧ MappedOffset 0x2FFC := by
  simp [MappedOffset]

theorem not_mapped_ends : ¬ MappedOffset 0x0010 ∧ ¬ MappedOffset 0x04F0 ∧ ¬ MappedOffset 0x3000 := by
  simp [MappedOffset]

theorem illegal_words : ¬ LegalWord 0x00000002 ∧ ¬ LegalWord 0x00000100 ∧ ¬ LegalWord 0x00010000 := by
  unfold LegalWord
  decide

theorem legal_words : LegalWord 0x00000000 ∧ LegalWord 0x0000FF53 ∧ LegalWord 0x00000064 := by
  unfold LegalWord
  decide

/-! ### Decoding and steps -/

theorem witness_DecodeInvertsEncode : decode 0x0000FF53 = .ok (.aesAddrk 255) := by decide

theorem witness_DecodeFollowsTheMap : LegalWord 0x0000FF53 ∧ ¬ LegalWord 0x00000100 := ⟨legal_words.2.1, illegal_words.2.1⟩

theorem witness_IllegalWordFails :
    ((busyWith 0x100 []).busy = true ∧ EngineTurn (busyWith 0x100 []) (busyWith 0x100 []) ∧
      ¬ LegalWord (busyWith 0x100 []).pending) ∧
    ((idleWith [wr 0x0000 2]).busy = false ∧ NextAccess (idleWith [wr 0x0000 2]) 0x0000 (.write 0x00000002) [] ∧
      ¬ LegalWord 0x00000002) :=
  ⟨⟨rfl, .inl ⟨rfl, rfl⟩, illegal_words.2.1⟩, ⟨rfl, next_wr 0x0000 2 (by decide) _ _ rfl, illegal_words.1⟩⟩

theorem witness_StepRunsDecodedCommand :
    (busyWith 0x10 [.engine, rd 4]).busy = true ∧ EngineTurn (busyWith 0x10 [.engine, rd 4]) (busyWith 0x10 [rd 4]) ∧
    decode (busyWith 0x10 [.engine, rd 4]).pending = .ok .gfMul := ⟨rfl, .inr ⟨[rd 4], rfl, rfl⟩, by decide⟩

theorem witness_StepDeliversEventsInOrder :
    (idleWith [rd 4]).inputs = .access ⟨4, 4, .read⟩ :: [] ∧ (idleWith [.reset none]).inputs = .reset none :: [] ∧
    ((idleWith [.engine]).busy = false ∧ (idleWith [.engine]).inputs = .engine :: []) ∧
    ((idleWith []).busy = false ∧ (idleWith []).inputs = []) := ⟨rfl, rfl, ⟨rfl, rfl⟩, ⟨rfl, rfl⟩⟩

/-- The clauses of R260 on lengths and flags, each at its limit. -/
theorem witness_FirstErrorIsReported_lengths :
    ((busyWith 2 []).busy = true ∧ EngineTurn (busyWith 2 []) (busyWith 2 []) ∧ ¬ LegalWord (busyWith 2 []).pending) ∧
    4096 < (lens 4097 0).inlen.toNat ∧ 3072 < (lens 3073 0).inlen.toNat ∧ (lens 1 0).inlen.toNat % 64 ≠ 0 ∧
    16 < (lens 17 0).inlen.toNat ∧ 32 < ({ State.reset with vklen := 33 } : State).vklen.toNat ∧
    State.reset.vkvalid = false ∧
    (({ lens 4097 0 with vkvalid := true } : State).vkvalid = true ∧
      4096 < ({ lens 4097 0 with vkvalid := true } : State).inlen.toNat) ∧
    (lens 0 33).keylen.toNat ∉ [16, 24, 32] ∧
    ((lens 17 32).keylen.toNat ∈ [16, 24, 32] ∧ 16 < (lens 17 32).inlen.toNat) ∧
    ((lens 15 24).keylen.toNat ∈ [16, 24, 32] ∧ (lens 15 24).inlen.toNat ≠ 16) ∧
    State.reset.kvalid = false ∧ (expanded.kvalid = true ∧ expanded.nr.toNat < 11) :=
  ⟨⟨rfl, .inl ⟨rfl, rfl⟩, illegal_words.1⟩, by decide, by decide, by decide, by decide, by decide, rfl,
    ⟨rfl, by decide⟩, by decide, by decide, by decide, rfl, ⟨rfl, by decide⟩⟩

/-- The clauses of R260 on contents. -/
theorem witness_FirstErrorIsReported_contents :
    (({ stored 0x0060 (str "123 -!") with vklen := 6 } : State).vklen.toNat ≤ 32 ∧
      ∀ b ∈ readBytes ({ stored 0x0060 (str "123 -!") with vklen := 6 } : State).mem 0x0060
        ({ stored 0x0060 (str "123 -!") with vklen := 6 } : State).vklen.toNat, letterShift b 1 = b.toNat) ∧
    ((input (str "TW@u")).inlen.toNat ≤ 4096 ∧
      ∃ b ∈ readBytes (input (str "TW@u")).mem 0x1000 (input (str "TW@u")).inlen.toNat, b.toNat ≠ 0x3D ∧ b.toNat ∉ alphabet) ∧
    (({ State.reset with p := 1 } : State).p.toNat < 2 ∨ ({ State.reset with p := 1 } : State).q.toNat < 2) ∧
    (2 ≤ ({ State.reset with p := 103 } : State).p.toNat ∧ 2 ≤ ({ State.reset with p := 103 } : State).q.toNat ∧
      Nat.gcd 17 ((({ State.reset with p := 103 } : State).p.toNat - 1) *
        (({ State.reset with p := 103 } : State).q.toNat - 1)) ≠ 1) ∧
    State.reset.n.toNat = 0 ∧ State.reset.m.toNat = 0 ∧
    (({ State.reset with x := 6, m := 9 } : State).m.toNat ≠ 0 ∧
      Nat.gcd (({ State.reset with x := 6, m := 9 } : State).x.toNat % ({ State.reset with x := 6, m := 9 } : State).m.toNat)
        ({ State.reset with x := 6, m := 9 } : State).m.toNat ≠ 1) := by
  refine ⟨⟨by decide, by decide⟩, ⟨by decide, by decide⟩, by decide, by decide, by decide, by decide, by decide⟩

/-! ### Control, GF(2^8) -/

theorem witness_NopOnlyCompletes :
    (busyWith 0x10 [wr 0x0000 0]).busy = true ∧ NextAccess (busyWith 0x10 [wr 0x0000 0]) 0x0000 (.write 0x00000000) [] ∧
    (idleWith [wr 0x0000 0, .engine]).busy = false ∧
    NextAccess (idleWith [wr 0x0000 0, .engine]) 0x0000 (.write 0x00000000) (.engine :: []) :=
  ⟨rfl, next_wr 0x0000 0 (by decide) _ _ rfl, rfl, next_wr 0x0000 0 (by decide) _ _ rfl⟩

theorem witness_ClrstClearsOvr :
    exec .gfMul State.reset = .next (after .gfMul State.reset) ∧ Instr.gfMul ≠ .clrst ∧
    (busyWith 1 [wr 0x2FFC 5, .engine]).busy = true ∧ (busyWith 1 [wr 0x2FFC 5, .engine]).pending = 0x00000001 ∧
    MappedOffset 0x2FFC ∧ NextAccess (busyWith 1 [wr 0x2FFC 5, .engine]) 0x2FFC (.write 5) (.engine :: []) :=
  ⟨rfl, by decide, rfl, rfl, mapped_ends.2.2.2.2.2.2, next_wr 0x2FFC 5 (by decide) _ _ rfl⟩

theorem witness_GmulIsPolynomialProduct :
    ∃ poly : Byte → Polynomial (ZMod 2),
      ∀ b, poly b = ∑ k ∈ Finset.range 8, if b.getLsbD k then Polynomial.X ^ k else 0 := ⟨_, fun _ => rfl⟩

theorem witness_GmulLaws : (0xFF : Byte) ≠ 0x00 := by decide

/-! ### Classical ciphers -/

theorem witness_CaesarShiftsLetters : (lens 4096 0).inlen.toNat ≤ 4096 ∧ 4096 < (lens 4097 0).inlen.toNat := by decide

theorem witness_CaesarRoundTrip :
    (input (str "aZ!")).inlen.toNat ≤ 4096 ∧ exec .caesEnc (input (str "aZ!")) = .next (after .caesEnc (input (str "aZ!"))) ∧
    ∃ u : State, u.shift = (input (str "aZ!")).shift ∧ u.inlen = (after .caesEnc (input (str "aZ!"))).outlen ∧
      readBytes u.mem 0x1000 u.inlen.toNat =
        readBytes (after .caesEnc (input (str "aZ!"))).mem 0x2000 (after .caesEnc (input (str "aZ!"))).outlen.toNat :=
  ⟨by decide, exec_after _ _, fedBack (input (str "aZ!")) (after .caesEnc (input (str "aZ!"))), by decide, by decide, by decide⟩

/-- The raw keywords of 2.3: too long, without a letter, and with letters. -/
theorem witness_VigKeyNormalises :
    32 < ({ State.reset with vklen := 33 } : State).vklen.toNat ∧
    (({ stored 0x0060 (str "123 -!") with vklen := 6 } : State).vklen.toNat ≤ 32 ∧
      [] = ((readBytes ({ stored 0x0060 (str "123 -!") with vklen := 6 } : State).mem 0x0060
          ({ stored 0x0060 (str "123 -!") with vklen := 6 } : State).vklen.toNat).filter fun b =>
        decide ((0x41 ≤ b.toNat ∧ b.toNat ≤ 0x5A) ∨ (0x61 ≤ b.toNat ∧ b.toNat ≤ 0x7A))).map (fun b => b &&& 0xDF)) ∧
    (rawKeyword.vklen.toNat ≤ 32 ∧
      str "LEMON" = ((readBytes rawKeyword.mem 0x0060 rawKeyword.vklen.toNat).filter fun b =>
        decide ((0x41 ≤ b.toNat ∧ b.toNat ≤ 0x5A) ∨ (0x61 ≤ b.toNat ∧ b.toNat ≤ 0x7A))).map (fun b => b &&& 0xDF) ∧
      str "LEMON" ≠ []) := by decide

theorem keywordInv_keyed : KeywordInv (keyed (str "a b")) where
  length_pos := by decide
  length_le := by decide
  index_lt := by decide
  upper := by decide
  zero_above := by
    have h : ∀ i < 32, (keyed (str "a b")).vklen.toNat ≤ i → readByte (keyed (str "a b")).mem (0x0060 + i) = 0x00 := by decide
    exact fun _ i h1 h2 => h i h2 h1

theorem witness_VigenereRunningKey :
    State.reset.vkvalid = false ∧
    (({ lens 4097 0 with vkvalid := true } : State).vkvalid = true ∧
      4096 < ({ lens 4097 0 with vkvalid := true } : State).inlen.toNat) ∧
    KeywordInv (keyed (str "a b")) ∧ (keyed (str "a b")).vkvalid = true ∧ (keyed (str "a b")).inlen.toNat ≤ 4096 :=
  ⟨rfl, ⟨rfl, by decide⟩, keywordInv_keyed, by decide, by decide⟩

theorem witness_VigenereRoundTrip :
    KeywordInv (keyed (str "a b")) ∧ (keyed (str "a b")).vkvalid = true ∧ (keyed (str "a b")).inlen.toNat ≤ 4096 ∧
    exec .vigEnc (keyed (str "a b")) = .next (after .vigEnc (keyed (str "a b"))) ∧
    ∃ u : State, u.vkvalid = true ∧ u.vklen = (keyed (str "a b")).vklen ∧ u.vkidx = (keyed (str "a b")).vkidx ∧
      readBytes u.mem 0x0060 u.vklen.toNat = readBytes (keyed (str "a b")).mem 0x0060 (keyed (str "a b")).vklen.toNat ∧
      u.inlen = (after .vigEnc (keyed (str "a b"))).outlen ∧
      readBytes u.mem 0x1000 u.inlen.toNat =
        readBytes (after .vigEnc (keyed (str "a b"))).mem 0x2000 (after .vigEnc (keyed (str "a b"))).outlen.toNat :=
  ⟨keywordInv_keyed, by decide, by decide, exec_after _ _, fedBack (keyed (str "a b")) (after .vigEnc (keyed (str "a b"))), by decide, by decide,
    by decide, by decide, by decide, by decide⟩

/-! ### Base64 -/

theorem witness_Base64EncodesTriples :
    (∃ b n : Nat → Nat,
      (∀ i, b i = if i < (lens 3072 0).inlen.toNat then (readByte (lens 3072 0).mem (0x1000 + i)).toNat else 0) ∧
      (∀ k, n k = b (3 * k) * 65536 + b (3 * k + 1) * 256 + b (3 * k + 2)) ∧ (lens 3072 0).inlen.toNat ≤ 3072) ∧
    ∃ b n : Nat → Nat,
      (∀ i, b i = if i < (lens 3073 0).inlen.toNat then (readByte (lens 3073 0).mem (0x1000 + i)).toNat else 0) ∧
      (∀ k, n k = b (3 * k) * 65536 + b (3 * k + 1) * 256 + b (3 * k + 2)) ∧ 3072 < (lens 3073 0).inlen.toNat :=
  ⟨⟨_, _, fun _ => rfl, fun _ => rfl, by decide⟩, ⟨_, _, fun _ => rfl, fun _ => rfl, by decide⟩⟩

theorem witness_Base64DecodesSymbols :
    (∃ (text symbols : List Byte) (value pads : Nat),
      text = readBytes (input (str "TW=u")).mem 0x1000 (input (str "TW=u")).inlen.toNat ∧
      symbols = text.filter (fun c => decide (c.toNat ≠ 0x3D)) ∧ pads = text.length - symbols.length ∧
      value = symbols.foldl (fun v c => 64 * v + alphabet.idxOf c.toNat) 0 ∧
      (input (str "TW=u")).inlen.toNat ≤ 4096 ∧ ∀ c ∈ symbols, c.toNat ∈ alphabet) ∧
    (∃ (text symbols : List Byte) (value pads : Nat),
      text = readBytes (input (str "TW@u")).mem 0x1000 (input (str "TW@u")).inlen.toNat ∧
      symbols = text.filter (fun c => decide (c.toNat ≠ 0x3D)) ∧ pads = text.length - symbols.length ∧
      value = symbols.foldl (fun v c => 64 * v + alphabet.idxOf c.toNat) 0 ∧
      (input (str "TW@u")).inlen.toNat ≤ 4096 ∧ ∃ c ∈ symbols, c.toNat ∉ alphabet) ∧
    4096 < (lens 4097 0).inlen.toNat :=
  ⟨⟨_, _, _, _, rfl, rfl, rfl, rfl, by decide, by decide⟩, ⟨_, _, _, _, rfl, rfl, rfl, rfl, by decide, by decide⟩, by decide⟩

theorem witness_Base64RoundTrip :
    (input (str "Ma")).inlen.toNat ≤ 3072 ∧ exec .b64Enc (input (str "Ma")) = .next (after .b64Enc (input (str "Ma"))) ∧
    ∃ u : State, u.inlen = (after .b64Enc (input (str "Ma"))).outlen ∧
      readBytes u.mem 0x1000 u.inlen.toNat =
        readBytes (after .b64Enc (input (str "Ma"))).mem 0x2000 (after .b64Enc (input (str "Ma"))).outlen.toNat :=
  ⟨by decide, exec_after _ _, fedBack (input (str "Ma")) (after .b64Enc (input (str "Ma"))), by decide, by decide⟩

/-! ### MD5 -/

theorem witness_CompressIsSixtyFourSteps (blk : List Byte) :
    ∃ w : Nat → Word, ∀ j, j < 16 →
      w j = le32 (blk.getD (4 * j) 0) (blk.getD (4 * j + 1) 0) (blk.getD (4 * j + 2) 0) (blk.getD (4 * j + 3) 0) :=
  ⟨_, fun _ _ => rfl⟩

theorem witness_Md5UpdateAbsorbsBlocks :
    ((lens 4096 0).inlen.toNat ≤ 4096 ∧ (lens 4096 0).inlen.toNat % 64 = 0) ∧
    (4096 < (lens 4160 0).inlen.toNat ∨ (lens 4160 0).inlen.toNat % 64 ≠ 0) ∧
    (4096 < (lens 63 0).inlen.toNat ∨ (lens 63 0).inlen.toNat % 64 ≠ 0) := by decide

/-- One padding block for 55 bytes, two for 56. -/
theorem witness_Md5FinalPadsAndDigests :
    4096 < (lens 4097 0).inlen.toNat ∧
    (∃ msg : List Byte, (lens 55 0).inlen.toNat ≤ 4096 ∧ 0 < 64 ∧ ((lens 55 0).inlen.toNat + 1 + 0) % 64 = 56 ∧
      msg = readBytes (lens 55 0).mem 0x1000 (lens 55 0).inlen.toNat ++ [0x80] ++ List.replicate 0 0x00 ++
        (List.range 8).map (fun k => BitVec.ofNat 8
          (8 * ((lens 55 0).mlen.toNat + (lens 55 0).inlen.toNat) % 2 ^ 64 / 256 ^ k))) ∧
    (∃ msg : List Byte, (lens 56 0).inlen.toNat ≤ 4096 ∧ 63 < 64 ∧ ((lens 56 0).inlen.toNat + 1 + 63) % 64 = 56 ∧
      msg = readBytes (lens 56 0).mem 0x1000 (lens 56 0).inlen.toNat ++ [0x80] ++ List.replicate 63 0x00 ++
        (List.range 8).map (fun k => BitVec.ofNat 8
          (8 * ((lens 56 0).mlen.toNat + (lens 56 0).inlen.toNat) % 2 ^ 64 / 256 ^ k))) :=
  ⟨by decide, ⟨_, by decide, by decide, by decide, rfl⟩, ⟨_, by decide, by decide, by decide, rfl⟩⟩

/-- A message of 65 bytes, split after its first block. -/
theorem witness_Md5SplitGivesSameDigest :
    (lens 65 0).inlen.toNat ≤ 4096 ∧ 64 * 1 ≤ (lens 65 0).inlen.toNat ∧ (lens 64 0).h0 = (lens 65 0).h0 ∧
    (lens 64 0).h1 = (lens 65 0).h1 ∧ (lens 64 0).h2 = (lens 65 0).h2 ∧ (lens 64 0).h3 = (lens 65 0).h3 ∧
    (lens 64 0).mlen = (lens 65 0).mlen ∧ (lens 64 0).inlen.toNat = 64 * 1 ∧
    readBytes (lens 64 0).mem 0x1000 (64 * 1) = readBytes (lens 65 0).mem 0x1000 (64 * 1) ∧
    exec .md5Update (lens 64 0) = .next (after .md5Update (lens 64 0)) ∧
    ∃ w : State, w.h0 = (after .md5Update (lens 64 0)).h0 ∧ w.h1 = (after .md5Update (lens 64 0)).h1 ∧
      w.h2 = (after .md5Update (lens 64 0)).h2 ∧ w.h3 = (after .md5Update (lens 64 0)).h3 ∧
      w.mlen = (after .md5Update (lens 64 0)).mlen ∧ w.inlen.toNat = (lens 65 0).inlen.toNat - 64 * 1 ∧
      readBytes w.mem 0x1000 w.inlen.toNat =
        readBytes (lens 65 0).mem (0x1000 + 64 * 1) ((lens 65 0).inlen.toNat - 64 * 1) :=
  ⟨by decide, by decide, rfl, rfl, rfl, rfl, rfl, by decide, by decide, exec_after _ _,
    { after .md5Update (lens 64 0) with inlen := 1 }, rfl, rfl, rfl, rfl, rfl, by decide, by decide⟩

/-! ### AES -/

theorem witness_KeyExpansionRecurrence :
    (lens 0 33).keylen.toNat ∉ [16, 24, 32] ∧
    ((lens 0 16).keylen.toNat = 4 * 4 ∧ (4 = 4 ∨ 4 = 6 ∨ 4 = 8)) ∧ ((lens 0 24).keylen.toNat = 4 * 6 ∧ (6 = 4 ∨ 6 = 6 ∨ 6 = 8)) ∧
    ((lens 0 32).keylen.toNat = 4 * 8 ∧ (8 = 4 ∨ 8 = 6 ∨ 8 = 8)) := by decide

theorem witness_AesLoadPads : (lens 16 0).inlen.toNat ≤ 16 ∧ 16 < (lens 17 0).inlen.toNat := by decide

theorem scheduleInv_key128 : ScheduleInv (after .aesKeyexp key128) where
  legal := by decide
  rounds := by decide
  schedule := by decide

theorem witness_AddRoundKeyXorsRoundKey :
    255 ≤ 255 ∧ State.reset.kvalid = false ∧ (expanded.kvalid = true ∧ expanded.nr.toNat < 11) ∧ ScheduleInv (after .aesKeyexp key128) ∧ (after .aesKeyexp key128).kvalid = true ∧ 10 ≤ (after .aesKeyexp key128).nr.toNat :=
  ⟨by decide, rfl, ⟨rfl, by decide⟩, scheduleInv_key128, by decide, by decide⟩

theorem witness_SboxMatchesAlgebra : gmul 0x53 0xCA = 0x01 := by decide

theorem witness_MixColumnsMultipliesColumns :
    ∃ b : Nat → Nat → Byte, ∀ r c, b r c = readByte ramp.mem (0x0130 + r + 4 * c) := ⟨_, fun _ _ => rfl⟩

theorem witness_AesEncRunsCipher :
    (lens 0 33).keylen.toNat ∉ [16, 24, 32] ∧
    ((lens 17 16).keylen.toNat ∈ [16, 24, 32] ∧ 16 < (lens 17 16).inlen.toNat) ∧
    (lens 0 16).keylen.toNat ∈ [16, 24, 32] ∧ (lens 0 16).inlen.toNat ≤ 16 ∧ 10 = (lens 0 16).keylen.toNat / 4 + 6 := by decide

theorem witness_AesDecRunsInverseCipher :
    (lens 16 15).keylen.toNat ∉ [16, 24, 32] ∧
    ((lens 15 16).keylen.toNat ∈ [16, 24, 32] ∧ (lens 15 16).inlen.toNat ≠ 16) ∧
    (lens 16 32).keylen.toNat ∈ [16, 24, 32] ∧ (lens 16 32).inlen.toNat = 16 ∧ 14 = (lens 16 32).keylen.toNat / 4 + 6 := by decide

theorem witness_StepCommandsComposeToCipher :
    ((lens 0 24).keylen.toNat ∈ [16, 24, 32] ∧ (lens 0 24).inlen.toNat ≤ 16) ∧
    ((lens 16 16).keylen.toNat ∈ [16, 24, 32] ∧ (lens 16 16).inlen.toNat = 16) := by decide

theorem witness_AesDecryptionInvertsEncryption :
    (lens 3 16).keylen.toNat ∈ [16, 24, 32] ∧ (lens 3 16).inlen.toNat ≤ 16 ∧
    exec .aesEnc (lens 3 16) = .next (after .aesEnc (lens 3 16)) ∧
    ∃ u : State, u.keylen = (lens 3 16).keylen ∧
      readBytes u.mem 0x0100 32 = readBytes (lens 3 16).mem 0x0100 32 ∧ u.inlen.toNat = 16 ∧
      readBytes u.mem 0x1000 16 = readBytes (after .aesEnc (lens 3 16)).mem 0x2000 16 :=
  ⟨by decide, by decide, exec_after _ _, fedBack (lens 3 16) (after .aesEnc (lens 3 16)), by decide, by decide, by decide, by decide⟩

/-! ### RSA -/

theorem witness_RsaKeygenDerivesKey :
    (({ State.reset with q := 1 } : State).p.toNat < 2 ∨ ({ State.reset with q := 1 } : State).q.toNat < 2) ∧
    (2 ≤ ({ State.reset with p := 103 } : State).p.toNat ∧ 2 ≤ ({ State.reset with p := 103 } : State).q.toNat ∧
      Nat.gcd 17 ((({ State.reset with p := 103 } : State).p.toNat - 1) *
        (({ State.reset with p := 103 } : State).q.toNat - 1)) ≠ 1) ∧
    2 ≤ State.reset.p.toNat ∧ 2 ≤ State.reset.q.toNat ∧
    Nat.gcd 17 ((State.reset.p.toNat - 1) * (State.reset.q.toNat - 1)) = 1 := by decide

/-- An RSA state of 2.7. -/
def rsaState (x n : Nat) : State := { State.reset with x := BitVec.ofNat 64 x, n := BitVec.ofNat 64 n }

theorem witness_RsaPowersAreExact :
    (rsaState 3232 3233).x.toNat < (rsaState 3232 3233).n.toNat ∧
    ((rsaState 3233 3233).n.toNat ≠ 0 ∧ (rsaState 3233 3233).n.toNat ≤ (rsaState 3233 3233).x.toNat) ∧
    (rsaState 5 0).n.toNat = 0 := by decide

/-- A state of 2.7 for RSA_MODEXP and RSA_MODINV. -/
def modState (x m : Nat) : State := { State.reset with x := BitVec.ofNat 64 x, m := BitVec.ofNat 64 m }

theorem witness_ModexpIsExact : (modState 7 1).m.toNat ≠ 0 ∧ (modState 7 0).m.toNat = 0 := by decide

theorem witness_ModinvIsInverse :
    ((modState 5 1).m.toNat ≠ 0 ∧ Nat.gcd ((modState 5 1).x.toNat % (modState 5 1).m.toNat) (modState 5 1).m.toNat = 1) ∧
    ((modState 0 7).m.toNat ≠ 0 ∧ Nat.gcd ((modState 0 7).x.toNat % (modState 0 7).m.toNat) (modState 0 7).m.toNat ≠ 1) ∧
    (modState 17 0).m.toNat = 0 := by decide

theorem witness_EulerRoundTrip :
    State.reset.p.toNat.Prime ∧ State.reset.q.toNat.Prime ∧ State.reset.p ≠ State.reset.q ∧
    Nat.gcd 17 ((State.reset.p.toNat - 1) * (State.reset.q.toNat - 1)) = 1 ∧
    exec .rsaKeygen State.reset = .next (after .rsaKeygen State.reset) ∧
    (65 : DWord).toNat < (after .rsaKeygen State.reset).n.toNat ∧
    Nat.gcd (65 : DWord).toNat (after .rsaKeygen State.reset).n.toNat = 1 :=
  ⟨show Nat.Prime 61 by norm_num, show Nat.Prime 53 by norm_num, by decide, by decide, rfl, by decide, by decide⟩

/-! ### The bus -/

theorem witness_BusAddressReachesOffset : 0 < Config.base ∨ Config.base + 0x4000 ≤ Config.base + 0x4000 := .inr (Nat.le_refl _)

/-- A narrow, a misaligned and an unmapped access. -/
theorem witness_BadAccessChangesNothing :
    ((idleWith [.access ⟨1, 0x1000, .write 0x41⟩]).inputs = .access ⟨1, 0x1000, .write 0x41⟩ :: [] ∧ 1 ≠ 4) ∧
    ((idleWith [rd 0x0006]).inputs = .access ⟨4, 0x0006, .read⟩ :: [] ∧ (0x0006 : Offset).toNat % 4 ≠ 0) ∧
    ((idleWith [rd 0x3000]).inputs = .access ⟨4, 0x3000, .read⟩ :: [] ∧ ¬ MappedOffset (0x3000 : Offset).toNat) :=
  ⟨⟨rfl, by decide⟩, ⟨rfl, by decide⟩, ⟨rfl, not_mapped_ends.2.2⟩⟩

theorem witness_BusyWriteIsDropped :
    ((busyWith 0x10 [wr 0x0020 0x57]).busy = true ∧ MappedOffset 0x0020 ∧
      NextAccess (busyWith 0x10 [wr 0x0020 0x57]) 0x0020 (.write 0x57) []) ∧
    (∃ t, step (busyWith 0x10 [wr 0x0020 0x57]) = .next t ∧ (busyWith 0x10 [wr 0x0020 0x57]).ovr = false ∧ t.ovr = true) ∧
    ∃ t, step { busyWith 1 [] with ovr := true } = .next t ∧ ({ busyWith 1 [] with ovr := true } : State).ovr = true ∧
      t.ovr = false :=
  ⟨⟨rfl, mapped_ends.2.2.2.1, next_wr 0x0020 0x57 (by decide) _ _ rfl⟩, ⟨_, rfl, rfl, rfl⟩, ⟨_, rfl, rfl, rfl⟩⟩

theorem statusInv_busy (w : Nat) (ins : List Input) : StatusInv (busyWith w ins) where
  busy_clear _ := rfl
  clear_code _ := rfl
  error_code h := by cases h

theorem witness_BusyReadsAreUnspecified :
    ((busyWith 0x10 [rd 4]).busy = true ∧ StatusInv (busyWith 0x10 [rd 4]) ∧ MappedOffset 0x0004 ∧
      NextAccess (busyWith 0x10 [rd 4]) 0x0004 .read [] ∧ 0x0004 = 0x0004) ∧
    (MappedOffset 0x0000 ∧ NextAccess (busyWith 0x10 [rd 0]) 0x0000 .read [] ∧ 0x0000 = 0x0000) ∧
    (MappedOffset 0x0080 ∧ NextAccess (busyWith 0x10 [rd 0x80]) 0x0080 .read [] ∧ 0x0080 ≠ 0x0000 ∧ 0x0080 ≠ 0x0004) :=
  ⟨⟨rfl, statusInv_busy _ _, mapped_ends.2.1, next_rd 4 (by decide) _ _ rfl, rfl⟩,
    ⟨mapped_ends.1, next_rd 0 (by decide) _ _ rfl, rfl⟩,
    ⟨mapped_ends.2.2.2.2.1, next_rd 0x80 (by decide) _ _ rfl, by decide, by decide⟩⟩

theorem witness_CmdWriteIsAccepted :
    (idleWith [wr 0x0000 2]).busy = false ∧ NextAccess (idleWith [wr 0x0000 2]) 0x0000 (.write 2) [] :=
  ⟨rfl, next_wr 0x0000 2 (by decide) _ _ rfl⟩

/-- INLEN, 13 bits; a second register; the first and the last word of the writable arrays; an RO word; the first and the last
register of the map; the last words of RK and OBUF; E and CMD. -/
theorem witness_RegistersReadBackWhatWasWritten :
    ((idleWith [wr 0x0008 0xFFFFFFFF, rd 0x0008]).busy = false ∧ (0x0008, 13) ∈ rwRegisters ∧
      NextAccess (idleWith [wr 0x0008 0xFFFFFFFF, rd 0x0008]) 0x0008 (.write 0xFFFFFFFF) [rd 0x0008] ∧
      ∃ t, step (idleWith [wr 0x0008 0xFFFFFFFF, rd 0x0008]) = .next t ∧ NextAccess t 0x0008 .read []) ∧
    (∃ t, step (idleWith [wr 0x0008 0xFFFFFFFF, rd 0x0124]) = .next t ∧ 0x0124 ≠ 0x0008 ∧ 0x0124 ≠ 0x0004 ∧
      NextAccess t 0x0124 .read []) ∧
    (RwArrayWord 0x0060 ∧ RwArrayWord 0x1FFC ∧ NextAccess (idleWith [wr 0x1FFC 1, rd 0x1FFC]) 0x1FFC (.write 1) [rd 0x1FFC] ∧
      ∃ t, step (idleWith [wr 0x1FFC 1, rd 0x1FFC]) = .next t ∧ NextAccess t 0x1FFC .read []) ∧
    (RoWord 0x2FFC ∧ NextAccess (idleWith [wr 0x2FFC 1]) 0x2FFC (.write 1) []) ∧
    ((0x0000, 0) ∈ idleReads (idleWith [rd 0x0000]) ∧ (0x0124, 0) ∈ idleReads (idleWith [rd 0x0124]) ∧
      NextAccess (idleWith [rd 0x0124]) 0x0124 .read []) ∧
    (ArrayWord 0x04EC ∧ NextAccess (idleWith [rd 0x04EC]) 0x04EC .read [] ∧ ArrayWord 0x2FFC ∧
      NextAccess (idleWith [rd 0x2FFC]) 0x2FFC .read []) ∧
    NextAccess (idleWith [rd 0x00A8]) 0x00A8 .read [] ∧ NextAccess (idleWith [rd 0x0000]) 0x0000 .read [] := by
  refine ⟨⟨rfl, by decide, next_wr 0x0008 0xFFFFFFFF (by decide) _ _ rfl, _, rfl, next_rd 0x0008 (by decide) _ _ rfl⟩,
    ⟨_, rfl, by decide, by decide, next_rd 0x0124 (by decide) _ _ rfl⟩,
    ⟨?_, ?_, next_wr 0x1FFC 1 (by decide) _ _ rfl, _, rfl, next_rd 0x1FFC (by decide) _ _ rfl⟩,
    ⟨?_, next_wr 0x2FFC 1 (by decide) _ _ rfl⟩,
    ⟨by decide, by decide, next_rd 0x0124 (by decide) _ _ rfl⟩,
    ⟨by simp [ArrayWord], next_rd 0x04EC (by decide) _ _ rfl, by simp [ArrayWord], next_rd 0x2FFC (by decide) _ _ rfl⟩, next_rd 0x00A8 (by decide) _ _ rfl, next_rd 0x0000 (by decide) _ _ rfl⟩
  · unfold RwArrayWord
    decide
  · unfold RwArrayWord
    decide
  · unfold RoWord
    decide

/-! ### Flags and registers over the whole machine -/

theorem witness_KvalidIsSetAndClearedAsStated :
    (Instr.aesKeyexp ∈ [Instr.aesKeyexp, .aesEnc, .aesDec] ∧ ∃ t, exec .aesKeyexp key128 = .next t) ∧
    (NextAccess (idleWith [wr 0x0120 16]) 0x0120 (.write 16) [] ∧ NextAccess (idleWith [wr 0x0100 0]) 0x0100 (.write 0) []) ∧
    (∃ t, step { key128 with busy := true, pending := 0x50 } = .next t ∧ key128.kvalid = false ∧ t.kvalid = true) ∧
    (∃ t, step { expanded with inputs := [wr 0x0120 16] } = .next t ∧ expanded.kvalid = true ∧ t.kvalid = false) ∧
    (NextReset (idleWith [.reset none]) ∧ ∃ t, step (idleWith [.reset none]) = .next t) :=
  ⟨⟨by decide, _, rfl⟩, ⟨next_wr 0x0120 16 (by decide) _ _ rfl, next_wr 0x0100 0 (by decide) _ _ rfl⟩, ⟨_, rfl, rfl, rfl⟩,
    ⟨_, rfl, rfl, rfl⟩, ⟨⟨none, [], rfl⟩, _, rfl⟩⟩

theorem witness_VkvalidIsSetAndClearedAsStated :
    (∃ t, exec .vigKey rawKeyword = .next t) ∧
    (NextAccess (idleWith [wr 0x0044 3]) 0x0044 (.write 3) [] ∧ NextAccess (idleWith [wr 0x007C 0]) 0x007C (.write 0) []) ∧
    (∃ t, step { rawKeyword with busy := true, pending := 0x22 } = .next t ∧ rawKeyword.vkvalid = false ∧ t.vkvalid = true) ∧
    (∃ t, step { keyed [] with inputs := [wr 0x0060 0] } = .next t ∧ (keyed []).vkvalid = true ∧ t.vkvalid = false) ∧
    (NextReset (idleWith [.reset none]) ∧ ∃ t, step (idleWith [.reset none]) = .next t) :=
  ⟨⟨_, rfl⟩, ⟨next_wr 0x0044 3 (by decide) _ _ rfl, next_wr 0x007C 0 (by decide) _ _ rfl⟩, ⟨_, rfl, rfl, rfl⟩,
    ⟨_, rfl, by decide, rfl⟩, ⟨⟨none, [], rfl⟩, _, rfl⟩⟩

theorem witness_CommandsKeepTheirOperands :
    (∃ t, exec .gfMul State.reset = .next t) ∧
    Instr.gfMul ∉ [Instr.caesEnc, .caesDec, .vigEnc, .vigDec, .b64Enc, .b64Dec, .md5Final, .aesStore, .aesEnc, .aesDec] ∧
    Instr.gfMul ∉ [Instr.aesKeyexp, .aesEnc, .aesDec] := ⟨⟨_, rfl⟩, by decide, by decide⟩

/-- A reset, an acceptance and a failing command, each of which changes ERR. -/
theorem witness_ErrIsWrittenAtTwoPoints :
    (∃ t, step { idleWith [.reset none] with err := true } = .next t ∧ t.err ≠ true) ∧
    (∃ t, step { idleWith [wr 0x0000 0] with err := true } = .next t ∧ t.err ≠ true) ∧
    ∃ t, step (busyWith 2 []) = .next t ∧ t.err ≠ (busyWith 2 []).err :=
  ⟨⟨_, rfl, by decide⟩, ⟨_, rfl, by decide⟩, ⟨_, rfl, by decide⟩⟩

/-! ### Reset, the invariant and progress -/

theorem witness_ResetGivesResetValues :
    (busyWith 0x10 [.reset (some ⟨4, 4, .read⟩), rd 4]).inputs = .reset (some ⟨4, 4, .read⟩) :: [rd 4] := rfl

/-- A core with a keyword, a key schedule and a derived RSA key, about to run VIG_ENC. -/
def loaded : State :=
  { after .rsaKeygen (after .aesKeyexp { keyed (str "a b") with keylen := 16 }) with busy := true, pending := 0x23 }

theorem inv_loaded : Inv loaded where
  memory := by decide
  status :=
    { busy_clear := by decide
      clear_code := by decide
      error_code := fun h => absurd h (by decide) }
  outlen := by unfold OutlenInv; decide
  keyword :=
    { length_pos := by decide
      length_le := by decide
      index_lt := by decide
      upper := by decide
      zero_above := by
        have h : ∀ i < 32, loaded.vklen.toNat ≤ i → readByte loaded.mem (0x0060 + i) = 0x00 := by decide
        exact fun _ i h1 h2 => h i h2 h1 }
  schedule :=
    { legal := by decide
      rounds := by decide
      schedule := by decide }
  rsaKey :=
    { phi_pos := by decide
      d_lt := by decide
      inverse := by decide }

theorem witness_StepKeepsInvariant :
    Inv loaded ∧ loaded.vkvalid = true ∧ loaded.kvalid = true ∧ loaded.n.toNat ≠ 0 ∧ ∃ t, step loaded = .next t :=
  ⟨inv_loaded, by decide, by decide, by decide, _, rfl⟩

theorem witness_StepKeepsMemoryCanonical : Memory.wf loaded.mem ∧ loaded.mem ≠ [] ∧ ∃ t, step loaded = .next t :=
  ⟨inv_loaded.memory, by decide, _, rfl⟩

theorem witness_AcceptedCommandIsExecuted :
    (busyWith 0x10 [rd 4, wr 0x0020 1, .engine, rd 4]).busy = true ∧
    ∀ i ∈ (busyWith 0x10 [rd 4, wr 0x0020 1, .engine, rd 4]).inputs, ∀ o, i ≠ .reset o :=
  ⟨rfl, by
    intro i hi o
    simp only [busyWith, rd, wr, List.mem_cons, List.not_mem_nil, or_false] at hi
    rcases hi with rfl | rfl | rfl | rfl <;> simp⟩

end Sys2Proof.Tests
end

section
/-! PROOFS. What a command and a step of the machine can do, each said once. -/

namespace Sys2Proof.Machine

/-! ## What a command does -/

/-- `t` is `s` but for the result registers GF_P, H0..H3, MLEN and R, and the draw counter. -/
abbrev OnlyResults (s t : State) : Prop :=
  t = { s with
    gfP := t.gfP, h0 := t.h0, h1 := t.h1, h2 := t.h2, h3 := t.h3, mlen := t.mlen, r := t.r, draws := t.draws }

/-- Everything the commands can write before they complete, by the shape of the write. -/
inductive CommandWrites (s : State) : Instr → State → Prop
  | results {i : Instr} {t : State}
      (hi : i ∈ [.nop, .gfMul, .md5Init, .md5Update, .rsaEnc, .rsaDec, .rsaModexp, .rsaModinv])
      (ht : OnlyResults s t) : CommandWrites s i t
  | clrst : CommandWrites s .clrst (clearOvr s)
  | output {i : Instr} {t : State} {bs : List Byte}
      (hi : i ∈ [.caesEnc, .caesDec, .b64Enc, .b64Dec, .md5Final, .aesStore])
      (ht : OnlyResults s t) (hl : bs.length ≤ Config.bufBytes) : CommandWrites s i (putOutput bs t)
  | keyword {k : List Byte} (hpos : 0 < k.length) (hle : k.length ≤ Config.vkeyBytes)
      (hup : ∀ b ∈ k, isUpper b = true) : CommandWrites s .vigKey (putKeyword k s)
  | vigenere {i : Instr} {bs : List Byte} {j : Nat} (hi : i ∈ [.vigEnc, .vigDec])
      (hl : bs.length ≤ Config.bufBytes) (hv : s.vkvalid = true)
      (hj : s.vkidx.toNat < s.vklen.toNat → j < s.vklen.toNat) :
      CommandWrites s i { putOutput bs s with vkidx := BitVec.ofNat 5 j }
  | schedule (hk : legalKeyLength s.keylen.toNat = true) : CommandWrites s .aesKeyexp (expandKey s)
  | block {i : Instr} {b : List Byte}
      (hi : (∃ r, i = .aesAddrk r) ∨ i ∈ [.aesLoad, .aesSubbytes, .aesInvsubbytes, .aesShiftrows, .aesInvshiftrows,
        .aesMixcolumns, .aesInvmixcolumns])
      (hl : b.length = 16) : CommandWrites s i (putBlock b s)
  | cipher {i : Instr} {b : List Byte} (hi : i ∈ [.aesEnc, .aesDec])
      (hk : legalKeyLength s.keylen.toNat = true) (hl : b.length = 16) :
      CommandWrites s i (putOutput b (putBlock b (expandKey s)))
  | rsaKey {n phi d : DWord} (hphi : phi.toNat ≠ 0) (hd : d.toNat < phi.toNat)
      (hinv : Config.eRsa * d.toNat % phi.toNat = 1 % phi.toNat) :
      CommandWrites s .rsaKeygen { s with n := n, phi := phi, d := d }

/-- How a command ends: with a failing completion, or with the writes of its shape and BUSY clear. -/
inductive CommandOutcome (i : Instr) (s : State) : Result → Prop
  | failed {c : ErrorCode} (hc : c ≠ .malformedCiphertext) : CommandOutcome i s (failing c s)
  | done {u : State} (hu : CommandWrites s i u) : CommandOutcome i s (completed u)

theorem mapInput_outcome {i : Instr} (hi : i ∈ [.caesEnc, .caesDec]) (f : Byte → Byte) (s : State) :
    CommandOutcome i s (mapInput f s) := by
  rcases mapInput_cases f s with ⟨-, h⟩ | ⟨hl, h⟩ <;> rw [h]
  · exact .failed (by decide)
  · exact .done (.output (by simp at hi ⊢; tauto) rfl (by simpa using hl))

theorem vigRun_outcome {i : Instr} (hi : i ∈ [.vigEnc, .vigDec]) (f : Byte → Byte → Byte) (s : State) :
    CommandOutcome i s (vigRun f s) := by
  rcases vigRun_cases f s with ⟨-, h⟩ | ⟨-, -, h⟩ | ⟨hv, hl, h⟩ <;> rw [h]
  · exact .failed (by decide)
  · exact .failed (by decide)
  · refine .done (.vigenere hi (by simpa using hl) hv fun hj => ?_)
    simpa using vigLoop_index_lt f (keywordBytes s) s.vkidx.toNat (inputBytes s) (by simpa using hj)

theorem transformState_outcome {i : Instr}
    (hi : i ∈ [.aesSubbytes, .aesInvsubbytes, .aesShiftrows, .aesInvshiftrows, .aesMixcolumns, .aesInvmixcolumns])
    {f : List Byte → List Byte} {s : State} (hf : (f (stateBlock s)).length = 16) :
    CommandOutcome i s (transformState f s) :=
  .done (.block (.inr (List.mem_cons_of_mem _ hi)) hf)

theorem rsaPower_outcome {i : Instr} (hi : i ∈ [.rsaEnc, .rsaDec]) (e : Nat) (s : State) :
    CommandOutcome i s (rsaPower e s) := by
  have hi : i ∈ [.nop, .gfMul, .md5Init, .md5Update, .rsaEnc, .rsaDec, .rsaModexp, .rsaModinv] := by
    simp at hi ⊢; tauto
  rcases rsaPower_cases e s with ⟨-, h⟩ | ⟨-, h⟩ | ⟨-, -, h⟩ <;> rw [h]
  · exact .failed (by decide)
  · exact .done (.results hi rfl)
  · exact .done (.results hi rfl)

theorem execVigKey_outcome (s : State) : CommandOutcome .vigKey s (execVigKey s) := by
  unfold execVigKey
  split
  · exact .failed (by decide)
  · next hlen =>
    split
    · exact .failed (by decide)
    · next hne =>
      have hle := length_normKeyword_le (keywordBytes s)
      rw [length_keywordBytes] at hle
      exact .done (.keyword (by omega) (by omega) fun _ => normKeyword_upper)

theorem execB64Enc_outcome (s : State) : CommandOutcome .b64Enc s (execB64Enc s) := by
  unfold execB64Enc
  split
  · exact .failed (by decide)
  · next hlen =>
    refine .done (.output (by simp) rfl ?_)
    rw [length_base64Encode, length_inputBytes]
    simp only [Config.b64eMax, Config.bufBytes] at hlen ⊢
    omega

theorem execB64Dec_outcome (s : State) : CommandOutcome .b64Dec s (execB64Dec s) := by
  unfold execB64Dec
  split
  · exact .failed (by decide)
  · next hlen =>
    split
    · exact .failed (by decide)
    · refine .done (.output (by simp) rfl ?_)
      have hle := length_base64Decode_le (inputBytes s)
      rw [length_inputBytes] at hle
      omega

theorem execMd5Update_outcome (s : State) : CommandOutcome .md5Update s (execMd5Update s) := by
  unfold execMd5Update
  split
  · exact .failed (by decide)
  · exact .done (.results (by simp) rfl)

theorem execMd5Final_outcome (s : State) : CommandOutcome .md5Final s (execMd5Final s) := by
  unfold execMd5Final
  split
  · exact .failed (by decide)
  · exact .done (.output (by simp) rfl (by simp [Config.bufBytes]))

theorem execAesKeyexp_outcome (s : State) : CommandOutcome .aesKeyexp s (execAesKeyexp s) := by
  unfold execAesKeyexp
  split
  · exact .failed (by decide)
  · next hk => exact .done (.schedule (by simpa using hk))

theorem execAesLoad_outcome (s : State) : CommandOutcome .aesLoad s (execAesLoad s) := by
  unfold execAesLoad
  split
  · exact .failed (by decide)
  · next hlen => exact .done (.block (by simp) (length_pkcs7 (by rw [length_inputBytes]; omega)))

theorem execAesAddrk_outcome (r : Nat) (s : State) : CommandOutcome (.aesAddrk r) s (execAesAddrk r s) := by
  unfold execAesAddrk
  split
  · exact .failed (by decide)
  · split
    · exact .failed (by decide)
    · exact .done (.block (by simp) (by simp))

theorem execAesEnc_outcome (s : State) : CommandOutcome .aesEnc s (execAesEnc s) := by
  unfold execAesEnc
  split
  · exact .failed (by decide)
  · next hk =>
    split
    · exact .failed (by decide)
    · next hlen =>
      exact .done (.cipher (by simp) (by simpa using hk)
        (length_cipher (length_pkcs7 (by rw [length_inputBytes]; omega)) _ _))

theorem execAesDec_outcome (s : State) : CommandOutcome .aesDec s (execAesDec s) := by
  unfold execAesDec
  split
  · exact .failed (by decide)
  · next hk =>
    split
    · exact .failed (by decide)
    · next hlen =>
      exact .done (.cipher (by simp) (by simpa using hk)
        (length_invCipher (by rw [length_inputBytes]; omega) _ _))

theorem execRsaKeygen_outcome (s : State) : CommandOutcome .rsaKeygen s (execRsaKeygen s) := by
  unfold execRsaKeygen
  simp only
  split
  · exact .failed (by decide)
  · next hpq =>
    split
    · exact .failed (by decide)
    · next hg =>
      have hphi : 0 < (s.p.toNat - 1) * (s.q.toNat - 1) := Nat.mul_pos (by omega) (by omega)
      have hphi64 : (s.p.toNat - 1) * (s.q.toNat - 1) < 2 ^ 64 :=
        calc (s.p.toNat - 1) * (s.q.toNat - 1)
            < 2 ^ 32 * 2 ^ 32 := Nat.mul_lt_mul'' (by omega) (by omega)
          _ = 2 ^ 64 := by norm_num
      generalize (s.p.toNat - 1) * (s.q.toNat - 1) = phi at *
      obtain ⟨hlt, hinv⟩ := modinv_spec (a := Config.eRsa) hphi hphi64
        (by rw [← Nat.gcd_rec, Nat.gcd_comm]; exact not_not.1 hg)
      refine .done (.rsaKey ?_ ?_ ?_) <;>
        simp only [BitVec.toNat_ofNat, Nat.mod_eq_of_lt hphi64, Nat.mod_eq_of_lt (hlt.trans hphi64)]
      · omega
      · exact hlt
      · exact hinv

theorem execRsaModexp_outcome (s : State) : CommandOutcome .rsaModexp s (execRsaModexp s) := by
  unfold execRsaModexp
  split
  · exact .failed (by decide)
  · exact .done (.results (by simp) rfl)

theorem execRsaModinv_outcome (s : State) : CommandOutcome .rsaModinv s (execRsaModinv s) := by
  unfold execRsaModinv
  split
  · exact .failed (by decide)
  · split
    · exact .failed (by decide)
    · exact .done (.results (by simp) rfl)

/-- Every command ends in one of the ways of `CommandOutcome` (60_exceptions.md R258, R259). -/
theorem exec_outcome (i : Instr) (s : State) : CommandOutcome i s (exec i s) := by
  cases i with
  | nop => exact .done (.results (by simp) rfl)
  | clrst => exact .done .clrst
  | gfMul => exact .done (.results (by simp) rfl)
  | caesEnc => exact mapInput_outcome (by simp) _ s
  | caesDec => exact mapInput_outcome (by simp) _ s
  | vigKey => exact execVigKey_outcome s
  | vigEnc => exact vigRun_outcome (by simp) _ s
  | vigDec => exact vigRun_outcome (by simp) _ s
  | b64Enc => exact execB64Enc_outcome s
  | b64Dec => exact execB64Dec_outcome s
  | md5Init => exact .done (.results (by simp) rfl)
  | md5Update => exact execMd5Update_outcome s
  | md5Final => exact execMd5Final_outcome s
  | aesKeyexp => exact execAesKeyexp_outcome s
  | aesLoad => exact execAesLoad_outcome s
  | aesStore => exact .done (.output (by simp) rfl (by simp [Config.bufBytes]))
  | aesAddrk r => exact execAesAddrk_outcome r s
  | aesSubbytes => exact transformState_outcome (by simp) (by simp)
  | aesInvsubbytes => exact transformState_outcome (by simp) (by simp)
  | aesShiftrows => exact transformState_outcome (by simp) (by simp)
  | aesInvshiftrows => exact transformState_outcome (by simp) (by simp)
  | aesMixcolumns => exact transformState_outcome (by simp) (by simp)
  | aesInvmixcolumns => exact transformState_outcome (by simp) (by simp)
  | aesEnc => exact execAesEnc_outcome s
  | aesDec => exact execAesDec_outcome s
  | rsaKeygen => exact execRsaKeygen_outcome s
  | rsaEnc => exact rsaPower_outcome (by simp) _ s
  | rsaDec => exact rsaPower_outcome (by simp) _ s
  | rsaModexp => exact execRsaModexp_outcome s
  | rsaModinv => exact execRsaModinv_outcome s

/-- `exec_outcome` for a command that answers a next state. -/
theorem exec_cases {i : Instr} {s t : State} (h : exec i s = .next t) :
    (∃ c, c ≠ .malformedCiphertext ∧ t = fail c s) ∨ ∃ u, CommandWrites s i u ∧ t = complete u := by
  cases h ▸ exec_outcome i s with
  | failed hc => exact .inl ⟨_, hc, rfl⟩
  | done hu => exact .inr ⟨_, hu, rfl⟩

/-! ## What a host write does -/

/-- Everything a register write can do: acceptance, VKLEN with VKVALID, KEYLEN with KVALID, or a change of the other
RW registers, which mean nothing to each other. -/
theorem writeReg_cases (g : Reg) (v : Word) (s : State) :
    (g = .cmd ∧ writeReg g v s = accept v s) ∨
    (g = .vklen ∧ writeReg g v s = clearVkvalid { s with vklen := v.setWidth 6 }) ∨
    (g = .keylen ∧ writeReg g v s = clearKvalid { s with keylen := v.setWidth 6 }) ∨
    (g ≠ .cmd ∧ ∃ t, writeReg g v s = t ∧ t = { s with
      inlen := t.inlen, gfA := t.gfA, gfB := t.gfB, shift := t.shift, h0 := t.h0, h1 := t.h1, h2 := t.h2, h3 := t.h3,
      mlen := t.mlen, p := t.p, q := t.q, x := t.x, y := t.y, m := t.m }) := by
  cases g with
  | cmd => exact .inl ⟨rfl, rfl⟩
  | vklen => exact .inr (.inl ⟨rfl, rfl⟩)
  | keylen => exact .inr (.inr (.inl ⟨rfl, rfl⟩))
  | _ => exact .inr (.inr (.inr ⟨by decide, _, rfl, rfl⟩))

/-- A word of an array lies inside it (20_memory.md R62, R63). -/
theorem readByte_writeWord_outside {b : ByteArr} {off x : Nat} {v : Word} {m : List Host.Cell} (h4 : off % 4 = 0)
    (ht : targetAt off = some (.arr b)) (hx : x < b.base ∨ b.base + b.size ≤ x) :
    readByte (writeBytes m off (wordBytes v)) x = readByte m x := by
  obtain ⟨h1, h2⟩ := targetAt_arr ht
  refine readByte_writeBytes_outside ?_
  rw [length_wordBytes]
  cases b <;>
    simp only [ByteArr.base, ByteArr.size, Config.vkeyBytes, Config.aesKeyBytes, Config.rkBytes, Config.bufBytes] at * <;>
    omega

/-! ## What a step does -/

/-- The engine's turn takes at most its event off the inputs. -/
theorem EngineTurn.eq {s u : State} (h : EngineTurn s u) : u = { s with inputs := u.inputs } := by
  rcases h with ⟨-, rfl⟩ | ⟨rest, -, rfl⟩ <;> rfl

/-- A 32-bit write to a mapped offset while BUSY = 0 writes the target there. -/
theorem step_write_idle {s : State} {off : Nat} {tgt : Target} {v : Word} {rest : List Input} (hb : s.busy = false)
    (h4 : off % 4 = 0) (ht : targetAt off = some tgt) (ha : NextAccess s off (.write v) rest) :
    step s = .next { writeTarget tgt off v { s with inputs := rest } with resp := some (.done false) } := by
  obtain ⟨o, rfl, hs⟩ := step_nextAccess ha
  rw [hs]
  simp [busAccess, accessTarget_of_aligned (a := ⟨4, o, .write v⟩) rfl h4, ht, writeAccess, hb]

/-- A 32-bit write to a mapped offset while BUSY = 1 only sets OVR (10_state.md R29). -/
theorem step_write_busy {s : State} {off : Nat} {v : Word} {rest : List Input} (hb : s.busy = true)
    (hm : MappedOffset off) (ha : NextAccess s off (.write v) rest) :
    step s = .next { s with inputs := rest, ovr := true, resp := some (.done false) } := by
  obtain ⟨o, ho, hs⟩ := step_nextAccess ha
  obtain ⟨tgt, ht, -⟩ := accessTarget_of_mapped (.write v) ho hm
  rw [hs]
  simp [busAccess, ht, writeAccess, hb, setOvr]

/-- Everything a step can do. -/
inductive StepEffect (s : State) : State → Prop
  | idle {u : State} (hb : s.busy = false) (hu : EngineTurn s u) : StepEffect s u
  | failed {u : State} {c : ErrorCode} (hb : s.busy = true) (hu : EngineTurn s u) (hc : c ≠ .malformedCiphertext) :
      StepEffect s (fail c u)
  | command {u v : State} {i : Instr} (hb : s.busy = true) (hu : EngineTurn s u) (hd : decode s.pending = .ok i)
      (hw : CommandWrites u i v) : StepEffect s (complete v)
  | answer {rest : List Input} {r : Option BusResponse} {k : Nat} :
      StepEffect s { s with inputs := rest, resp := r, draws := k }
  | overrun {off : Nat} {v : Word} {rest : List Input} (hb : s.busy = true) (hm : MappedOffset off)
      (ha : NextAccess s off (.write v) rest) :
      StepEffect s { s with inputs := rest, ovr := true, resp := some (.done false) }
  | write {off : Nat} {tgt : Target} {v : Word} {rest : List Input} (hb : s.busy = false) (h4 : off % 4 = 0)
      (ht : targetAt off = some tgt) (ha : NextAccess s off (.write v) rest) :
      StepEffect s { writeTarget tgt off v { s with inputs := rest } with resp := some (.done false) }
  | reset {overlap : Option Access} {rest : List Input} (hr : s.inputs = .reset overlap :: rest) :
      StepEffect s (resetInput overlap { s with inputs := rest })

theorem stepEffect_engineStep {s u t : State} (hb : s.busy = true) (hu : EngineTurn s u)
    (h : engineStep u = .next t) : StepEffect s t := by
  have hp : u.pending = s.pending := by rw [hu.eq]
  unfold engineStep at h
  split at h
  · next i hd =>
    rcases exec_cases h with ⟨c, hc, rfl⟩ | ⟨v, hv, rfl⟩
    · exact .failed hb hu hc
    · exact .command hb hu (hp ▸ hd) hv
  · cases h
    exact .failed hb hu (by decide)

theorem stepEffect_engineTurn {s u t : State} (hu : EngineTurn s u) (h : engineTurn u = .next t) : StepEffect s t := by
  have hb : u.busy = s.busy := by rw [hu.eq]
  unfold engineTurn at h
  split at h
  · next hbu => exact stepEffect_engineStep (hb ▸ hbu) hu h
  · next hbu =>
    cases h
    exact .idle (by simpa [hb] using hbu) hu

theorem stepEffect_access {s t : State} {a : Access} {rest : List Input} (hi : s.inputs = .access a :: rest)
    (h : step s = .next t) : StepEffect s t := by
  have hs : step s = .next (busAccess a { s with inputs := rest }) := by simp only [step, nextEvent, hi]
  obtain ⟨size, o, op⟩ := a
  cases ht : accessTarget ⟨size, o, op⟩ with
  | none =>
    cases hs.symm.trans h
    cases op <;> simpa [busAccess, ht, busError] using StepEffect.answer
  | some tgt =>
    obtain ⟨rfl, h4, htgt⟩ := accessTarget_some ht
    cases op with
    | read =>
      cases hs.symm.trans h
      simp only [busAccess, ht, readAccess]
      split <;> exact .answer
    | write v =>
      have ha : NextAccess s o.toNat (.write v) rest := ⟨o, rfl, hi⟩
      cases hb : s.busy with
      | false =>
        cases (step_write_idle hb h4 htgt ha).symm.trans h
        exact .write hb h4 htgt ha
      | true =>
        have hm : MappedOffset o.toNat := (targetAt_isSome_iff h4).1 (by rw [htgt]; rfl)
        cases (step_write_busy hb hm ha).symm.trans h
        exact .overrun hb hm ha

theorem step_effect {s t : State} (h : step s = .next t) : StepEffect s t := by
  have hs : nextEvent s = .next t := h
  unfold nextEvent at hs
  split at hs
  · next hi => exact stepEffect_engineTurn (.inl ⟨hi, rfl⟩) hs
  · next rest hi => exact stepEffect_engineTurn (.inr ⟨rest, hi, rfl⟩) hs
  · next a rest hi => exact stepEffect_access hi h
  · next o rest hi => cases hs; exact .reset hi

end Sys2Proof.Machine
end

section
/-! PROOFS. Every step keeps the invariant of the core: one rule per state operation, then the cases of a step. -/

namespace Sys2Proof.Machine

/-! ## What each part of the invariant depends on -/

theorem readBytes_congr {m m' : List Host.Cell} {a n : Nat} (h : ∀ x, a ≤ x → x < a + n → readByte m' x = readByte m x) :
    readBytes m' a n = readBytes m a n :=
  List.map_congr_left fun i hi => h (a + i) (by omega) (by have := List.mem_range.1 hi; omega)

theorem StatusInv.congr {s t : State} (h : StatusInv s) (hb : t.busy = s.busy) (he : t.err = s.err)
    (hc : t.errCode = s.errCode) : StatusInv t where
  busy_clear := by rw [hb, he]; exact h.busy_clear
  clear_code := by rw [he, hc]; exact h.clear_code
  error_code := by rw [he, hc]; exact h.error_code

theorem KeywordInv.congr {s t : State} (h : KeywordInv s) (hv : t.vkvalid = s.vkvalid) (hl : t.vklen = s.vklen)
    (hi : t.vkidx = s.vkidx) (hb : ∀ x, 0x0060 ≤ x → x < 0x0080 → readByte t.mem x = readByte s.mem x) :
    KeywordInv t where
  length_pos := by rw [hv, hl]; exact h.length_pos
  length_le := by rw [hv, hl]; exact h.length_le
  index_lt := by rw [hv, hl, hi]; exact h.index_lt
  upper := fun hval => by
    have hle := h.length_le (hv ▸ hval)
    have hk : keywordBytes t = keywordBytes s := by
      simp only [keywordBytes, arrBytes, hl]
      exact readBytes_congr fun x h1 h2 => hb x h1 (by simp only [ByteArr.base, Config.vkeyBytes] at *; omega)
    rw [hk]
    exact h.upper (hv ▸ hval)
  zero_above := fun hval i h1 h2 => by
    rw [hb _ (by simp [ByteArr.base]) (by simp only [ByteArr.base, Config.vkeyBytes] at *; omega)]
    exact h.zero_above (hv ▸ hval) i (hl ▸ h1) h2

theorem keywordInv_of_invalid {s : State} (h : s.vkvalid = false) : KeywordInv s := by
  constructor <;> intro hv <;> rw [h] at hv <;> cases hv

theorem ScheduleInv.congr {s t : State} (h : ScheduleInv s) (hv : t.kvalid = s.kvalid) (hl : t.keylen = s.keylen)
    (hn : t.nr = s.nr) (hk : ∀ x, 0x0100 ≤ x → x < 0x0120 → readByte t.mem x = readByte s.mem x)
    (hr : ∀ x, 0x0400 ≤ x → x < 0x04F0 → readByte t.mem x = readByte s.mem x) : ScheduleInv t where
  legal := by rw [hv, hl]; exact h.legal
  rounds := by rw [hv, hl, hn]; exact h.rounds
  schedule := fun hval => by
    have hlegal := of_decide_eq_true (h.legal (hv ▸ hval))
    have hkey : keyBytes t = keyBytes s := by
      simp only [keyBytes, arrBytes, hl]
      exact readBytes_congr fun x h1 h2 => hk x h1 (by simp only [ByteArr.base] at *; omega)
    have hrk : roundKeys t = roundKeys s := readBytes_congr hr
    rw [hkey, hrk]
    exact h.schedule (hv ▸ hval)

theorem scheduleInv_of_invalid {s : State} (h : s.kvalid = false) : ScheduleInv s := by
  constructor <;> intro hv <;> rw [h] at hv <;> cases hv

theorem RsaKeyInv.congr {s t : State} (h : RsaKeyInv s) (hn : t.n = s.n) (hp : t.phi = s.phi) (hd : t.d = s.d) :
    RsaKeyInv t where
  phi_pos := by rw [hn, hp]; exact h.phi_pos
  d_lt := by rw [hn, hp, hd]; exact h.d_lt
  inverse := by rw [hn, hp, hd]; exact h.inverse

/-- The invariant speaks of no other register, and of no byte outside VKEY, KEY and RK. -/
theorem Inv.congr {s t : State} (h : Inv s) (hm : Memory.wf t.mem) (ho : t.outlen.toNat ≤ Config.bufBytes)
    (ht : t = { s with
      ovr := t.ovr, pending := t.pending, inlen := t.inlen, outlen := t.outlen, gfA := t.gfA, gfB := t.gfB,
      gfP := t.gfP, shift := t.shift, h0 := t.h0, h1 := t.h1, h2 := t.h2, h3 := t.h3, mlen := t.mlen, p := t.p,
      q := t.q, x := t.x, y := t.y, m := t.m, r := t.r, mem := t.mem, inputs := t.inputs, resp := t.resp,
      draws := t.draws })
    (hb : ∀ x, (0x0060 ≤ x ∧ x < 0x0080) ∨ (0x0100 ≤ x ∧ x < 0x0120) ∨ (0x0400 ≤ x ∧ x < 0x04F0) →
      readByte t.mem x = readByte s.mem x) : Inv t where
  memory := hm
  status := h.status.congr (congrArg State.busy ht :) (congrArg State.err ht :) (congrArg State.errCode ht :)
  outlen := ho
  keyword := h.keyword.congr (congrArg State.vkvalid ht :) (congrArg State.vklen ht :) (congrArg State.vkidx ht :)
    fun x h1 h2 => hb x (.inl ⟨h1, h2⟩)
  schedule := h.schedule.congr (congrArg State.kvalid ht :) (congrArg State.keylen ht :) (congrArg State.nr ht :)
    (fun x h1 h2 => hb x (.inr (.inl ⟨h1, h2⟩))) fun x h1 h2 => hb x (.inr (.inr ⟨h1, h2⟩))
  rsaKey := h.rsaKey.congr (congrArg State.n ht :) (congrArg State.phi ht :) (congrArg State.d ht :)

/-! ## The operations of the commands -/

theorem inv_onlyResults {s t : State} (h : Inv s) (ht : OnlyResults s t) : Inv t := by
  have hmem : t.mem = s.mem := (congrArg State.mem ht :)
  refine h.congr (hmem ▸ h.memory) ?_ (ht.trans (by rw [ht])) fun x _ => by rw [hmem]
  rw [congrArg State.outlen ht]
  exact h.outlen

/-- A command's output lies inside OBUF. -/
theorem readByte_putOutput {s : State} {bs : List Byte} (hl : bs.length ≤ Config.bufBytes) {x : Nat}
    (hx : x < 0x2000 ∨ 0x3000 ≤ x) : readByte (putOutput bs s).mem x = readByte s.mem x :=
  readByte_writeBytes_outside (by simp only [ByteArr.base, Config.bufBytes] at *; omega)

theorem inv_putOutput {s : State} {bs : List Byte} (h : Inv s) (hl : bs.length ≤ Config.bufBytes) :
    Inv (putOutput bs s) := by
  refine h.congr (wf_putArr h.memory hl) ?_ rfl fun x hx => readByte_putOutput hl (.inl (by omega))
  simp only [putOutput, BitVec.toNat_ofNat]
  exact (Nat.mod_le _ _).trans hl

theorem readByte_putBlock {s : State} {b : List Byte} (hl : b.length = 16) {x : Nat} (hx : x < 0x0130 ∨ 0x0140 ≤ x) :
    readByte (putBlock b s).mem x = readByte s.mem x :=
  readByte_writeBytes_outside (by rw [hl]; exact hx)

theorem inv_putBlock {s : State} {b : List Byte} (h : Inv s) (hl : b.length = 16) : Inv (putBlock b s) :=
  h.congr (wf_putArr h.memory hl.le) h.outlen rfl fun _ hx => readByte_putBlock hl (by omega)

theorem inv_setVkidx {s : State} {j : Nat} (h : Inv s) (hj : s.vkvalid = true → j < s.vklen.toNat) :
    Inv { s with vkidx := BitVec.ofNat 5 j } where
  memory := h.memory
  status := h.status.congr rfl rfl rfl
  outlen := h.outlen
  keyword :=
    { length_pos := h.keyword.length_pos
      length_le := h.keyword.length_le
      index_lt := fun hv => by
        simp only [BitVec.toNat_ofNat]
        exact (Nat.mod_le _ _).trans_lt (hj hv)
      upper := h.keyword.upper
      zero_above := h.keyword.zero_above }
  schedule := h.schedule.congr rfl rfl rfl (fun _ _ _ => rfl) fun _ _ _ => rfl
  rsaKey := h.rsaKey.congr rfl rfl rfl

/-- VKEY after VIG_KEY holds the normalised keyword with 0x00 above it (41_classical.md R134). -/
theorem keywordInv_putKeyword {s : State} {k : List Byte} (hpos : 0 < k.length) (hle : k.length ≤ Config.vkeyBytes)
    (hup : ∀ b ∈ k, isUpper b = true) : KeywordInv (putKeyword k s) := by
  have hlen : (putKeyword k s).vklen.toNat = k.length := by
    simp only [putKeyword_vklen, BitVec.toNat_ofNat]
    exact Nat.mod_eq_of_lt (by simp only [Config.vkeyBytes] at hle; omega)
  have hbyte : ∀ i, i < Config.vkeyBytes → readByte (putKeyword k s).mem (ByteArr.vkey.base + i) = k.getD i 0 := by
    intro i hi
    rw [putKeyword_mem, readByte_writeBytes_inside (by simp; omega)]
    by_cases hik : i < k.length
    · rw [List.getD_append _ _ _ _ hik]
    · rw [List.getD_append_right _ _ _ _ (by omega), List.getD_eq_default k _ (by omega)]
      rw [List.getD_eq_getElem _ _ (by simp; omega), List.getElem_replicate]
  refine ⟨fun _ => by omega, fun _ => by omega, fun _ => ?_, fun _ => ?_, fun _ i h1 h2 => ?_⟩
  · rw [hlen]; exact hpos
  · have hk : keywordBytes (putKeyword k s) = k := by
      refine List.ext_getElem (by simpa using hlen) fun i h1 h2 => ?_
      simp only [keywordBytes, arrBytes, readBytes, List.getElem_map, List.getElem_range]
      rw [hbyte i (by omega)]
      simp [List.getD, h2]
    rwa [hk]
  · rw [hbyte i h2, List.getD_eq_default k _ (by omega)]

/-- The normalised keyword and the zeros above it fill VKEY. -/
theorem length_paddedKeyword {k : List Byte} (hle : k.length ≤ Config.vkeyBytes) :
    (k ++ List.replicate (Config.vkeyBytes - k.length) (0x00 : Byte)).length = Config.vkeyBytes := by
  rw [List.length_append, List.length_replicate]
  omega

theorem readByte_putKeyword {s : State} {k : List Byte} (hle : k.length ≤ Config.vkeyBytes) {x : Nat}
    (hx : x < 0x0060 ∨ 0x0080 ≤ x) : readByte (putKeyword k s).mem x = readByte s.mem x :=
  readByte_writeBytes_outside (by rw [length_paddedKeyword hle]; exact hx)

theorem inv_putKeyword {s : State} {k : List Byte} (h : Inv s) (hpos : 0 < k.length) (hle : k.length ≤ Config.vkeyBytes)
    (hup : ∀ b ∈ k, isUpper b = true) : Inv (putKeyword k s) where
  memory := wf_putArr h.memory (length_paddedKeyword hle).le
  status := h.status.congr rfl rfl rfl
  outlen := h.outlen
  keyword := keywordInv_putKeyword hpos hle hup
  schedule := h.schedule.congr rfl rfl rfl (fun _ _ _ => readByte_putKeyword hle (by omega))
    fun _ _ _ => readByte_putKeyword hle (by omega)
  rsaKey := h.rsaKey.congr rfl rfl rfl

/-- The schedule of a legal key and the zeros above it fill RK (44_aes.md R186, R200). -/
theorem length_schedule {s : State} (hk : legalKeyLength s.keylen.toNat = true) :
    (keyExpansion (keyBytes s) ++
      List.replicate (Config.rkBytes - (keyExpansion (keyBytes s)).length) (0x00 : Byte)).length = Config.rkBytes := by
  have hk := of_decide_eq_true hk
  have hlen := length_keyExpansion (key := keyBytes s) (nk := s.keylen.toNat / 4)
    (by rw [length_keyBytes]; omega) (by omega)
  simp only [List.length_append, List.length_replicate, hlen, roundsOf, Config.rkBytes]
  omega

theorem readByte_expandKey {s : State} (hk : legalKeyLength s.keylen.toNat = true) {x : Nat}
    (hx : x < 0x0400 ∨ 0x04F0 ≤ x) : readByte (expandKey s).mem x = readByte s.mem x :=
  readByte_writeBytes_outside (by rw [length_schedule hk]; exact hx)

theorem scheduleInv_expandKey {s : State} (hk : legalKeyLength s.keylen.toNat = true) : ScheduleInv (expandKey s) where
  legal := fun _ => hk
  rounds := fun _ => by
    have hk := of_decide_eq_true hk
    simp only [expandKey, putSchedule_nr, putSchedule_keylen, BitVec.toNat_ofNat, roundsOf]
    exact Nat.mod_eq_of_lt (by omega)
  schedule := fun _ => by
    have hkey : keyBytes (expandKey s) = keyBytes s :=
      readBytes_congr fun x _ h2 => readByte_expandKey hk (.inl (by
        have := (expandKey s).keylen.isLt
        simp only [ByteArr.base] at h2
        omega))
    rw [hkey]
    have hsame := readBytes_writeBytes_same s.mem ByteArr.rk.base (keyExpansion (keyBytes s) ++
      List.replicate (Config.rkBytes - (keyExpansion (keyBytes s)).length) 0x00)
    rwa [length_schedule hk] at hsame

theorem inv_expandKey {s : State} (h : Inv s) (hk : legalKeyLength s.keylen.toNat = true) : Inv (expandKey s) where
  memory := wf_putArr h.memory (length_schedule hk).le
  status := h.status.congr rfl rfl rfl
  outlen := h.outlen
  keyword := h.keyword.congr rfl rfl rfl fun _ _ h2 => readByte_expandKey hk (.inl (by omega))
  schedule := scheduleInv_expandKey hk
  rsaKey := h.rsaKey.congr rfl rfl rfl

theorem inv_setRsaKey {s : State} {n phi d : DWord} (h : Inv s) (hphi : phi.toNat ≠ 0) (hd : d.toNat < phi.toNat)
    (hinv : Config.eRsa * d.toNat % phi.toNat = 1 % phi.toNat) : Inv { s with n := n, phi := phi, d := d } where
  memory := h.memory
  status := h.status.congr rfl rfl rfl
  outlen := h.outlen
  keyword := h.keyword.congr rfl rfl rfl fun _ _ _ => rfl
  schedule := h.schedule.congr rfl rfl rfl (fun _ _ _ => rfl) fun _ _ _ => rfl
  rsaKey := ⟨fun _ => hphi, fun _ => hd, fun _ => hinv⟩

theorem inv_commandWrites {i : Instr} {s u : State} (h : Inv s) (hw : CommandWrites s i u) : Inv u := by
  cases hw with
  | results _ ht => exact inv_onlyResults h ht
  | clrst => exact h.congr h.memory h.outlen rfl fun _ _ => rfl
  | output _ ht hl => exact inv_putOutput (inv_onlyResults h ht) hl
  | keyword hpos hle hup => exact inv_putKeyword h hpos hle hup
  | vigenere _ hl hv hj => exact inv_setVkidx (inv_putOutput h hl) fun _ => hj (h.keyword.index_lt hv)
  | schedule hk => exact inv_expandKey h hk
  | block _ hl => exact inv_putBlock h hl
  | cipher _ hk hl => exact inv_putOutput (inv_putBlock (inv_expandKey h hk) hl) (by rw [hl]; decide)
  | rsaKey hphi hd hinv => exact inv_setRsaKey h hphi hd hinv

/-! ## Completion, acceptance and failure -/

/-- A change of BUSY, ERR and ERRCODE alone keeps the invariant if STATUS stays consistent. -/
theorem inv_setStatus {s : State} {b e : Bool} {c : Byte} {w : Word} (h : Inv s)
    (hs : StatusInv { s with busy := b, err := e, errCode := c, pending := w }) :
    Inv { s with busy := b, err := e, errCode := c, pending := w } where
  memory := h.memory
  status := hs
  outlen := h.outlen
  keyword := h.keyword.congr rfl rfl rfl fun _ _ _ => rfl
  schedule := h.schedule.congr rfl rfl rfl (fun _ _ _ => rfl) fun _ _ _ => rfl
  rsaKey := h.rsaKey.congr rfl rfl rfl

theorem inv_complete {s : State} (h : Inv s) : Inv (complete s) :=
  inv_setStatus h ⟨fun hb => (nomatch hb), h.status.clear_code, h.status.error_code⟩

theorem inv_fail {s : State} {c : ErrorCode} (h : Inv s) (hc : c ≠ .malformedCiphertext) : Inv (fail c s) :=
  inv_setStatus h ⟨fun hb => (nomatch hb), fun he => (nomatch he), fun _ => ⟨c, hc, rfl⟩⟩

theorem inv_accept {s : State} (v : Word) (h : Inv s) : Inv (accept v s) :=
  inv_setStatus h ⟨fun _ => rfl, fun _ => rfl, fun he => (nomatch he)⟩

/-! ## Host writes -/

/-- A host write that clears VKVALID may do as it likes to VKLEN and VKEY (10_state.md R31). -/
theorem Inv.withoutKeyword {s t : State} (h : Inv s) (hm : Memory.wf t.mem)
    (ht : t = { s with vkvalid := false, vklen := t.vklen, mem := t.mem })
    (hb : ∀ x, 0x0080 ≤ x → readByte t.mem x = readByte s.mem x) : Inv t where
  memory := hm
  status := h.status.congr (congrArg State.busy ht :) (congrArg State.err ht :) (congrArg State.errCode ht :)
  outlen := by rw [ht]; exact h.outlen
  keyword := keywordInv_of_invalid (congrArg State.vkvalid ht :)
  schedule := h.schedule.congr (congrArg State.kvalid ht :) (congrArg State.keylen ht :) (congrArg State.nr ht :)
    (fun x _ _ => hb x (by omega)) fun x _ _ => hb x (by omega)
  rsaKey := h.rsaKey.congr (congrArg State.n ht :) (congrArg State.phi ht :) (congrArg State.d ht :)

/-- A host write that clears KVALID may do as it likes to KEYLEN and KEY (10_state.md R30). -/
theorem Inv.withoutSchedule {s t : State} (h : Inv s) (hm : Memory.wf t.mem)
    (ht : t = { s with kvalid := false, keylen := t.keylen, mem := t.mem })
    (hb : ∀ x, x < 0x0100 → readByte t.mem x = readByte s.mem x) : Inv t where
  memory := hm
  status := h.status.congr (congrArg State.busy ht :) (congrArg State.err ht :) (congrArg State.errCode ht :)
  outlen := by rw [ht]; exact h.outlen
  keyword := h.keyword.congr (congrArg State.vkvalid ht :) (congrArg State.vklen ht :) (congrArg State.vkidx ht :)
    fun x _ _ => hb x (by omega)
  schedule := scheduleInv_of_invalid (congrArg State.kvalid ht :)
  rsaKey := h.rsaKey.congr (congrArg State.n ht :) (congrArg State.phi ht :) (congrArg State.d ht :)

theorem inv_writeReg {s : State} (g : Reg) (v : Word) (h : Inv s) : Inv (writeReg g v s) := by
  rcases writeReg_cases g v s with ⟨-, hw⟩ | ⟨-, hw⟩ | ⟨-, hw⟩ | ⟨-, t, hw, ht⟩ <;> rw [hw]
  · exact inv_accept v h
  · exact h.withoutKeyword h.memory rfl fun _ _ => rfl
  · exact h.withoutSchedule h.memory rfl fun _ _ => rfl
  · have hmem : t.mem = s.mem := (congrArg State.mem ht :)
    refine h.congr (hmem ▸ h.memory) ?_ (ht.trans (by rw [ht])) fun x _ => by rw [hmem]
    rw [congrArg State.outlen ht]
    exact h.outlen

theorem inv_writeArrWord {s : State} {b : ByteArr} {off : Nat} (v : Word) (h : Inv s) (h4 : off % 4 = 0)
    (ht : targetAt off = some (.arr b)) : Inv (writeArrWord b off v s) := by
  have hwf : Memory.wf (writeArrWord b off v s).mem := wf_writeArrWord h.memory ht h4
  have hout := fun x => readByte_writeWord_outside (x := x) (v := v) (m := s.mem) h4 ht
  cases b with
  | vkey => exact h.withoutKeyword hwf rfl fun x hx => hout x (.inr hx)
  | key => exact h.withoutSchedule hwf rfl fun x hx => hout x (.inl hx)
  | state => exact h.congr hwf h.outlen rfl fun x hx => hout x (by simp only [ByteArr.base, ByteArr.size]; omega)
  | ibuf => exact h.congr hwf h.outlen rfl fun x hx => hout x (by simp only [ByteArr.base]; omega)
  | rk => exact h
  | obuf => exact h

theorem inv_writeTarget {s : State} {tgt : Target} {off : Nat} (v : Word) (h : Inv s) (h4 : off % 4 = 0)
    (ht : targetAt off = some tgt) : Inv (writeTarget tgt off v s) := by
  cases tgt with
  | reg g => exact inv_writeReg g v h
  | arr b => exact inv_writeArrWord v h h4 ht

/-! ## Reset and the step -/

/-- The registers of reset meet the invariant, whatever the canonical memory holds (10_state.md R56). -/
theorem inv_reset_with {t : State} (hm : Memory.wf t.mem)
    (ht : t = { State.reset with mem := t.mem, inputs := t.inputs, resp := t.resp, draws := t.draws }) : Inv t where
  memory := hm
  status := by rw [ht]; exact ⟨fun hb => (nomatch hb), fun _ => rfl, fun he => (nomatch he)⟩
  outlen := by rw [ht]; exact Nat.zero_le _
  keyword := keywordInv_of_invalid (congrArg State.vkvalid ht :)
  schedule := scheduleInv_of_invalid (congrArg State.kvalid ht :)
  rsaKey := by
    have hn : t.n.toNat = 0 := congrArg (fun u => u.n.toNat) ht
    exact ⟨fun h => absurd hn h, fun h => absurd hn h, fun h => absurd hn h⟩

/-- The model's own fields (the inputs, the response, the draw counter) and OVR mean nothing to the invariant. -/
theorem inv_setModelFields {s : State} {o : Bool} {is : List Input} {r : Option BusResponse} {k : Nat} (h : Inv s) :
    Inv { s with ovr := o, inputs := is, resp := r, draws := k } :=
  h.congr h.memory h.outlen rfl fun _ _ => rfl

theorem inv_engineTurn {s u : State} (h : Inv s) (hu : EngineTurn s u) : Inv u := by
  rw [hu.eq]
  exact inv_setModelFields h

theorem inv_stepEffect {s t : State} (h : Inv s) (ht : StepEffect s t) : Inv t := by
  cases ht with
  | idle _ hu => exact inv_engineTurn h hu
  | failed _ hu hc => exact inv_fail (inv_engineTurn h hu) hc
  | command _ hu _ hw => exact inv_complete (inv_commandWrites (inv_engineTurn h hu) hw)
  | answer => exact inv_setModelFields h
  | overrun => exact inv_setModelFields h
  | write _ h4 htgt => exact inv_setModelFields (inv_writeTarget _ (inv_setModelFields h) h4 htgt)
  | reset => exact inv_reset_with (wf_powerOnMemory _) rfl

end Sys2Proof.Machine

open Sys2Proof Sys2Proof.Machine

/-- Settles O59: each part of the invariant depends on few registers and bytes, and each operation of a step that
touches them restores it. -/
theorem stepKeepsInvariant : Obligations.StepKeepsInvariant :=
  fun _ _ h hs => inv_stepEffect h (step_effect hs)

/-- Settles O57: the case of `inv_reset_with` where nothing is listed in memory. -/
theorem resetMeetsInvariant : Obligations.ResetMeetsInvariant := inv_reset_with wf_nil rfl

end

section
/-! PROOFS. Who writes the flags and the registers: what the commands and the host's writes do to each, then over the
cases of a step. -/

namespace Sys2Proof.Machine

/-! ## The flags under a command's writes -/

/-- The commands that expand a key (44_aes.md R200, R215, R216). -/
abbrev keyCommands : List Instr := [.aesKeyexp, .aesEnc, .aesDec]

/-- The commands that write OUTLEN and OBUF (10_state.md R33). -/
abbrev outputCommands : List Instr :=
  [.caesEnc, .caesDec, .vigEnc, .vigDec, .b64Enc, .b64Dec, .md5Final, .aesStore, .aesEnc, .aesDec]

theorem output_mem {i : Instr} (h : i ∈ [.caesEnc, .caesDec, .b64Enc, .b64Dec, .md5Final, .aesStore]) :
    i ∈ outputCommands := by
  simp only [List.mem_cons, List.not_mem_nil, or_false] at h ⊢; tauto

theorem vigenere_mem {i : Instr} (h : i ∈ [.vigEnc, .vigDec]) : i ∈ outputCommands := by
  simp only [List.mem_cons, List.not_mem_nil, or_false] at h ⊢; tauto

theorem cipher_mem {i : Instr} (h : i ∈ [.aesEnc, .aesDec]) : i ∈ outputCommands := by
  simp only [List.mem_cons, List.not_mem_nil, or_false] at h ⊢; tauto

theorem CommandWrites.err_eq {s u : State} {i : Instr} (h : CommandWrites s i u) :
    u.err = s.err ∧ u.errCode = s.errCode := by
  cases h with
  | results _ ht => exact ⟨(congrArg State.err ht :), (congrArg State.errCode ht :)⟩
  | output _ ht _ => exact ⟨(congrArg State.err ht :), (congrArg State.errCode ht :)⟩
  | _ => exact ⟨rfl, rfl⟩

theorem CommandWrites.ovr_eq {s u : State} {i : Instr} (h : CommandWrites s i u) (hi : i ≠ .clrst) : u.ovr = s.ovr := by
  cases h with
  | results _ ht => exact (congrArg State.ovr ht :)
  | output _ ht _ => exact (congrArg State.ovr ht :)
  | clrst => exact absurd rfl hi
  | _ => rfl

theorem CommandWrites.clrst_eq {s u : State} (h : CommandWrites s .clrst u) : u = clearOvr s := by
  cases h with
  | clrst => rfl
  | results hr => simp at hr
  | output ho => simp at ho
  | vigenere hv => simp at hv
  | block hb => simp at hb
  | cipher hc => simp at hc

theorem CommandWrites.schedule_eq {s u : State} {i : Instr} (h : CommandWrites s i u) (hi : i ∉ keyCommands) :
    u.nr = s.nr ∧ u.kvalid = s.kvalid := by
  cases h with
  | results _ ht => exact ⟨(congrArg State.nr ht :), (congrArg State.kvalid ht :)⟩
  | output _ ht _ => exact ⟨(congrArg State.nr ht :), (congrArg State.kvalid ht :)⟩
  | schedule => exact absurd (by simp) hi
  | cipher hc => exact absurd (List.mem_cons_of_mem _ hc) hi
  | _ => exact ⟨rfl, rfl⟩

theorem CommandWrites.kvalid_set {s u : State} {i : Instr} (h : CommandWrites s i u) (hi : i ∈ keyCommands) :
    u.kvalid = true := by
  cases h with
  | schedule => rfl
  | cipher => rfl
  | results hr => simp only [List.mem_cons, List.not_mem_nil, or_false] at hi hr; grind
  | output ho => simp only [List.mem_cons, List.not_mem_nil, or_false] at hi ho; grind
  | vigenere hv => simp only [List.mem_cons, List.not_mem_nil, or_false] at hi hv; grind
  | block hb => simp only [List.mem_cons, List.not_mem_nil, or_false] at hi hb; grind
  | _ => simp at hi

theorem CommandWrites.vkvalid_eq {s u : State} {i : Instr} (h : CommandWrites s i u) (hi : i ≠ .vigKey) :
    u.vkvalid = s.vkvalid := by
  cases h with
  | results _ ht => exact (congrArg State.vkvalid ht :)
  | output _ ht _ => exact (congrArg State.vkvalid ht :)
  | keyword => exact absurd rfl hi
  | _ => rfl

theorem CommandWrites.vkvalid_set {s u : State} (h : CommandWrites s .vigKey u) : u.vkvalid = true := by
  cases h with
  | keyword => rfl
  | results hr => simp at hr
  | output ho => simp at ho
  | vigenere hv => simp at hv
  | block hb => simp at hb
  | cipher hc => simp at hc

theorem CommandWrites.outlen_eq {s u : State} {i : Instr} (h : CommandWrites s i u) (hi : i ∉ outputCommands) :
    u.outlen = s.outlen := by
  cases h with
  | results _ ht => exact (congrArg State.outlen ht :)
  | output ho => exact absurd (output_mem ho) hi
  | vigenere hv => exact absurd (vigenere_mem hv) hi
  | cipher hc => exact absurd (cipher_mem hc) hi
  | _ => rfl

/-- The bytes a command leaves alone: all but VKEY (and what lies below it), STATE, for a key command RK, and for an
output command OBUF (30_encoding.md R95). -/
theorem CommandWrites.readByte_eq {s u : State} {i : Instr} (h : CommandWrites s i u) {x : Nat} (hv : 0x0080 ≤ x)
    (hs : x < 0x0130 ∨ 0x0140 ≤ x) (hk : i ∈ keyCommands → x < 0x0400 ∨ 0x04F0 ≤ x)
    (ho : i ∈ outputCommands → x < 0x2000 ∨ 0x3000 ≤ x) : readByte u.mem x = readByte s.mem x := by
  cases h with
  | results _ ht => rw [congrArg State.mem ht]
  | clrst => rfl
  | output hi ht hl =>
    rw [readByte_putOutput hl (ho (output_mem hi)), congrArg State.mem ht]
  | keyword _ hle => exact readByte_putKeyword hle (.inr hv)
  | vigenere hi hl =>
    exact readByte_putOutput hl (ho (vigenere_mem hi))
  | schedule hl => exact readByte_expandKey hl (hk (by simp))
  | block _ hl => exact readByte_putBlock hl hs
  | @cipher i b hi hl hb =>
    have hb16 : b.length ≤ Config.bufBytes := by rw [hb]; decide
    calc readByte (putOutput b (putBlock b (expandKey s))).mem x
        = readByte (putBlock b (expandKey s)).mem x := readByte_putOutput hb16 (ho (cipher_mem hi))
      _ = readByte (expandKey s).mem x := readByte_putBlock hb hs
      _ = readByte s.mem x := readByte_expandKey hl (hk (List.mem_cons_of_mem _ hi))
  | rsaKey => rfl

/-! ## The flags under a host write -/

theorem writeTarget_ovr (tgt : Target) (off : Nat) (v : Word) (s : State) : (writeTarget tgt off v s).ovr = s.ovr := by
  cases tgt with
  | reg g =>
    rcases writeReg_cases g v s with ⟨-, h⟩ | ⟨-, h⟩ | ⟨-, h⟩ | ⟨-, t, h, ht⟩ <;> rw [writeTarget, h]
    · rfl
    · rfl
    · rfl
    · exact (congrArg State.ovr ht :)
  | arr b => cases b <;> rfl

/-- Only CMD's write touches ERR and ERRCODE, and it clears both (10_state.md R27, R28). -/
theorem writeTarget_err (tgt : Target) (off : Nat) (v : Word) (s : State) :
    ((writeTarget tgt off v s).err = s.err ∧ (writeTarget tgt off v s).errCode = s.errCode) ∨
      (tgt = .reg .cmd ∧ (writeTarget tgt off v s).err = false ∧ (writeTarget tgt off v s).errCode = 0x00) := by
  cases tgt with
  | reg g =>
    rcases writeReg_cases g v s with ⟨rfl, -⟩ | ⟨-, h⟩ | ⟨-, h⟩ | ⟨-, t, h, ht⟩
    · exact .inr ⟨rfl, rfl, rfl⟩
    · rw [writeTarget, h]; exact .inl ⟨rfl, rfl⟩
    · rw [writeTarget, h]; exact .inl ⟨rfl, rfl⟩
    · rw [writeTarget, h]; exact .inl ⟨(congrArg State.err ht :), (congrArg State.errCode ht :)⟩
  | arr b => cases b <;> exact .inl ⟨rfl, rfl⟩

/-- A host write to KEY or KEYLEN clears KVALID, and no other touches it (R30). -/
theorem writeTarget_kvalid (tgt : Target) (off : Nat) (v : Word) (s : State) :
    (writeTarget tgt off v s).kvalid = s.kvalid ∨
      ((tgt = .reg .keylen ∨ tgt = .arr .key) ∧ (writeTarget tgt off v s).kvalid = false) := by
  cases tgt with
  | reg g =>
    rcases writeReg_cases g v s with ⟨-, h⟩ | ⟨-, h⟩ | ⟨rfl, -⟩ | ⟨-, t, h, ht⟩
    · rw [writeTarget, h]; exact .inl rfl
    · rw [writeTarget, h]; exact .inl rfl
    · exact .inr ⟨.inl rfl, rfl⟩
    · rw [writeTarget, h]; exact .inl (congrArg State.kvalid ht :)
  | arr b =>
    cases b with
    | key => exact .inr ⟨.inr rfl, rfl⟩
    | _ => exact .inl rfl

/-- A host write to VKEY or VKLEN clears VKVALID, and no other touches it (R31). -/
theorem writeTarget_vkvalid (tgt : Target) (off : Nat) (v : Word) (s : State) :
    (writeTarget tgt off v s).vkvalid = s.vkvalid ∨
      ((tgt = .reg .vklen ∨ tgt = .arr .vkey) ∧ (writeTarget tgt off v s).vkvalid = false) := by
  cases tgt with
  | reg g =>
    rcases writeReg_cases g v s with ⟨-, h⟩ | ⟨rfl, -⟩ | ⟨-, h⟩ | ⟨-, t, h, ht⟩
    · rw [writeTarget, h]; exact .inl rfl
    · exact .inr ⟨.inl rfl, rfl⟩
    · rw [writeTarget, h]; exact .inl rfl
    · rw [writeTarget, h]; exact .inl (congrArg State.vkvalid ht :)
  | arr b =>
    cases b with
    | vkey => exact .inr ⟨.inr rfl, rfl⟩
    | _ => exact .inl rfl

/-! ## The flags over a step -/

/-- OVR changes only by an overrun, which sets it, and by a reset or CLRST, which clear it (R29). -/
theorem StepEffect.ovr_cases {s t : State} (h : StepEffect s t) :
    t.ovr = s.ovr ∨
    (t.ovr = true ∧ s.busy = true ∧ ∃ off v rest, MappedOffset off ∧ NextAccess s off (.write v) rest) ∨
    (t.ovr = false ∧
      (NextReset s ∨ (s.busy = true ∧ decode s.pending = .ok .clrst ∧ ∃ u, EngineTurn s u))) := by
  cases h with
  | idle _ hu => exact .inl (congrArg State.ovr hu.eq :)
  | failed _ hu => exact .inl (congrArg State.ovr hu.eq :)
  | @command u v i hb hu hd hw =>
    by_cases hi : i = .clrst
    · subst hi
      exact .inr (.inr ⟨congrArg State.ovr hw.clrst_eq, .inr ⟨hb, hd, u, hu⟩⟩)
    · exact .inl ((hw.ovr_eq hi).trans (congrArg State.ovr hu.eq :))
  | answer => exact .inl rfl
  | overrun hb hm ha => exact .inr (.inl ⟨rfl, hb, _, _, _, hm, ha⟩)
  | write => exact .inl (writeTarget_ovr ..)
  | reset hr => exact .inr (.inr ⟨rfl, .inl ⟨_, _, hr⟩⟩)

/-- KVALID changes only by a key command, which sets it, and by a reset or a write to KEY or KEYLEN, which clear it
(R30). -/
theorem StepEffect.kvalid_cases {s t : State} (h : StepEffect s t) :
    t.kvalid = s.kvalid ∨
    (t.kvalid = true ∧ s.busy = true ∧ (∃ u, EngineTurn s u) ∧ ∃ i ∈ keyCommands, decode s.pending = .ok i) ∨
    (t.kvalid = false ∧ (NextReset s ∨ (s.busy = false ∧
      ∃ off v rest, 0x0100 ≤ off ∧ off ≤ 0x0120 ∧ NextAccess s off (.write v) rest))) := by
  cases h with
  | idle _ hu => exact .inl (congrArg State.kvalid hu.eq :)
  | failed _ hu => exact .inl (congrArg State.kvalid hu.eq :)
  | @command u v i hb hu hd hw =>
    by_cases hi : i ∈ keyCommands
    · exact .inr (.inl ⟨hw.kvalid_set hi, hb, ⟨u, hu⟩, i, hi, hd⟩)
    · exact .inl ((hw.schedule_eq hi).2.trans (congrArg State.kvalid hu.eq :))
  | answer => exact .inl rfl
  | overrun => exact .inl rfl
  | @write off tgt v rest hb _ htgt ha =>
    rcases writeTarget_kvalid tgt off v { s with inputs := rest } with h | ⟨ht, h⟩
    · exact .inl h
    · refine .inr (.inr ⟨h, .inr ⟨hb, off, v, rest, ?_, ?_, ha⟩⟩) <;> rcases ht with rfl | rfl
      · exact (by decide : 0x0100 ≤ Reg.keylen.offset).trans (targetAt_reg htgt).ge
      · exact (targetAt_arr htgt).1
      · exact (targetAt_reg htgt).le
      · exact (targetAt_arr htgt).2.le
  | reset hr => exact .inr (.inr ⟨rfl, .inl ⟨_, _, hr⟩⟩)

/-- VKVALID changes only by VIG_KEY, which sets it, and by a reset or a write to VKEY or VKLEN, which clear it (R31). -/
theorem StepEffect.vkvalid_cases {s t : State} (h : StepEffect s t) :
    t.vkvalid = s.vkvalid ∨
    (t.vkvalid = true ∧ s.busy = true ∧ (∃ u, EngineTurn s u) ∧ decode s.pending = .ok .vigKey) ∨
    (t.vkvalid = false ∧ (NextReset s ∨ (s.busy = false ∧
      ∃ off v rest, (off = 0x0044 ∨ (0x0060 ≤ off ∧ off ≤ 0x007C)) ∧ NextAccess s off (.write v) rest))) := by
  cases h with
  | idle _ hu => exact .inl (congrArg State.vkvalid hu.eq :)
  | failed _ hu => exact .inl (congrArg State.vkvalid hu.eq :)
  | @command u v i hb hu hd hw =>
    by_cases hi : i = .vigKey
    · subst hi
      exact .inr (.inl ⟨hw.vkvalid_set, hb, ⟨u, hu⟩, hd⟩)
    · exact .inl ((hw.vkvalid_eq hi).trans (congrArg State.vkvalid hu.eq :))
  | answer => exact .inl rfl
  | overrun => exact .inl rfl
  | @write off tgt v rest hb h4 htgt ha =>
    rcases writeTarget_vkvalid tgt off v { s with inputs := rest } with h | ⟨ht, h⟩
    · exact .inl h
    · refine .inr (.inr ⟨h, .inr ⟨hb, off, v, rest, ?_, ha⟩⟩)
      rcases ht with rfl | rfl
      · exact .inl (targetAt_reg htgt)
      · obtain ⟨h1, h2⟩ := targetAt_arr htgt
        simp only [ByteArr.base, ByteArr.size, Config.vkeyBytes] at h1 h2
        exact .inr ⟨h1, by omega⟩
  | reset hr => exact .inr (.inr ⟨rfl, .inl ⟨_, _, hr⟩⟩)

theorem step_reset {s : State} {overlap : Option Access} {rest : List Input} (h : s.inputs = .reset overlap :: rest) :
    step s = .next (resetInput overlap { s with inputs := rest }) := by
  simp only [step, nextEvent, h]

end Sys2Proof.Machine

open Sys2Proof Sys2Proof.Machine

/-- Settles O47, by the three ways in which a step treats OVR. -/
theorem busyWriteIsDropped : Obligations.BusyWriteIsDropped := by
  refine ⟨fun s off v rest hb hm ha => ⟨_, step_write_busy hb hm ha⟩, fun s t h h0 h1 => ?_, fun s t h h0 h1 => ?_⟩
  · rcases (step_effect h).ovr_cases with he | ⟨-, hset⟩ | ⟨he, -⟩
    · simp [he, h0] at h1
    · exact hset
    · simp [he] at h1
  · rcases (step_effect h).ovr_cases with he | ⟨he, -⟩ | ⟨-, hclear⟩
    · simp [he, h0] at h1
    · simp [he] at h1
    · exact hclear

/-- Settles O52, by the three ways in which a step treats KVALID. -/
theorem kvalidIsSetAndClearedAsStated : Obligations.KvalidIsSetAndClearedAsStated := by
  refine ⟨fun s t i hi h => ?_, fun s off v rest hb h4 hlo hhi ha => ?_, fun s t h h0 h1 => ?_, fun s t h h0 h1 => ?_,
    fun s t hr h => ?_⟩
  · rcases exec_cases h with ⟨c, -, rfl⟩ | ⟨u, hw, rfl⟩
    · exact .inr ⟨c, rfl⟩
    · exact .inl (hw.kvalid_set hi)
  · rcases hhi.lt_or_eq with hlt | rfl
    · exact ⟨_, step_write_idle hb h4 (targetAt_of_holds (b := .key) hlo hlt) ha, rfl⟩
    · exact ⟨_, step_write_idle hb h4 (targetAt_offset .keylen) ha, rfl⟩
  · rcases (step_effect h).kvalid_cases with he | ⟨-, hset⟩ | ⟨he, -⟩
    · simp [he, h0] at h1
    · exact hset
    · simp [he] at h1
  · rcases (step_effect h).kvalid_cases with he | ⟨he, -⟩ | ⟨-, hclear⟩
    · simp [he, h0] at h1
    · simp [he] at h1
    · exact hclear
  · obtain ⟨o, rest, hi⟩ := hr
    cases (step_reset hi).symm.trans h
    rfl

/-- Settles O53, by the three ways in which a step treats VKVALID. -/
theorem vkvalidIsSetAndClearedAsStated : Obligations.VkvalidIsSetAndClearedAsStated := by
  refine ⟨fun s t h => ?_, fun s off v rest hb hoff ha => ?_, fun s t h h0 h1 => ?_, fun s t h h0 h1 => ?_,
    fun s t hr h => ?_⟩
  · rcases exec_cases h with ⟨c, -, rfl⟩ | ⟨u, hw, rfl⟩
    · exact .inr ⟨c, rfl⟩
    · exact .inl hw.vkvalid_set
  · rcases hoff with rfl | ⟨h4, hlo, hhi⟩
    · exact ⟨_, step_write_idle hb rfl (targetAt_offset .vklen) ha, rfl⟩
    · have hlt : off < 0x0080 := by omega
      exact ⟨_, step_write_idle hb h4 (targetAt_of_holds (b := .vkey) hlo hlt) ha, rfl⟩
  · rcases (step_effect h).vkvalid_cases with he | ⟨-, hset⟩ | ⟨he, -⟩
    · simp [he, h0] at h1
    · exact hset
    · simp [he] at h1
  · rcases (step_effect h).vkvalid_cases with he | ⟨he, -⟩ | ⟨-, hclear⟩
    · simp [he, h0] at h1
    · simp [he] at h1
    · exact hclear
  · obtain ⟨o, rest, hi⟩ := hr
    cases (step_reset hi).symm.trans h
    rfl

/-- Settles O54: the registers by the frame of every command, the bytes and OUTLEN, NR and KVALID by the shapes of a
command's writes. -/
theorem commandsKeepTheirOperands : Obligations.CommandsKeepTheirOperands := by
  intro i s t h
  have hfields : t.inlen = s.inlen ∧ t.gfA = s.gfA ∧ t.gfB = s.gfB ∧ t.shift = s.shift ∧ t.keylen = s.keylen ∧
      t.p = s.p ∧ t.q = s.q ∧ t.x = s.x ∧ t.y = s.y ∧ t.m = s.m ∧ t.pending = s.pending ∧ t.inputs = s.inputs ∧
      t.resp = s.resp := by
    rcases exec_frame h with ⟨c, -, rfl⟩ | ht
    · simp
    · rw [ht]; simp
  obtain ⟨h1, h2, h3, h4, h5, h6, h7, h8, h9, h10, h11, h12, h13⟩ := hfields
  refine ⟨h1, h2, h3, h4, h5, h6, h7, h8, h9, h10, h11, h12, h13, ?_⟩
  rcases exec_cases h with ⟨c, -, rfl⟩ | ⟨u, hw, rfl⟩
  · exact ⟨fun _ _ => rfl, fun _ => ⟨rfl, fun _ _ _ => rfl⟩, fun _ => ⟨rfl, rfl, fun _ _ _ => rfl⟩⟩
  · refine ⟨fun x hx => ?_, fun hi => ⟨hw.outlen_eq hi, fun x h1 h2 => ?_⟩,
      fun hi => ⟨(hw.schedule_eq hi).1, (hw.schedule_eq hi).2, fun x h1 h2 => ?_⟩⟩
    · exact hw.readByte_eq (by omega) (by omega) (fun _ => by omega) fun _ => by omega
    · exact hw.readByte_eq (by omega) (by omega) (fun _ => by omega) fun ho => absurd ho hi
    · exact hw.readByte_eq (by omega) (by omega) (fun hk => absurd hk hi) fun _ => by omega

/-- Settles O55, over the cases of a step. -/
theorem errIsWrittenAtTwoPoints : Obligations.ErrIsWrittenAtTwoPoints := by
  intro s t h hne
  cases step_effect h with
  | idle _ hu => rw [hu.eq] at hne; simp at hne
  | failed hb hu => exact .inr (.inr ⟨hb, _, _, hu, rfl⟩)
  | command _ hu _ hw =>
    obtain ⟨he, hc⟩ := hw.err_eq
    rw [complete_err, complete_errCode, he, hc, hu.eq] at hne
    simp at hne
  | answer => simp at hne
  | overrun => simp at hne
  | @write off tgt v rest hb _ htgt ha =>
    rcases writeTarget_err tgt off v { s with inputs := rest } with ⟨he, hc⟩ | ⟨rfl, he, hc⟩
    · simp [he, hc] at hne
    · obtain rfl : off = 0x0000 := targetAt_reg htgt
      exact .inr (.inl ⟨hb, ⟨v, rest, ha⟩, he, hc⟩)
  | reset hr => exact .inl ⟨_, _, hr⟩

/-- Settles O56: the reset input puts every register at its reset value, and the bytes by `readByte_powerOnMemory`. -/
theorem resetGivesResetValues : Obligations.ResetGivesResetValues := by
  refine ⟨fun s overlap rest hi => ⟨_, step_reset hi, rfl, rfl, fun x h1 h2 h3 => ?_, fun x hx => ?_⟩, ?_⟩
  · refine (readByte_powerOnMemory _ _).trans (if_neg ?_)
    simp only [ramOffsets, List.mem_append, not_or]
    exact ⟨⟨h1, h2⟩, h3⟩
  · refine (readByte_powerOnMemory _ _).trans (if_pos ?_)
    simp only [ramOffsets, List.mem_append, List.mem_range'_1, ByteArr.base, ByteArr.size, Config.rkBytes,
      Config.bufBytes]
    omega
  · decide

/-- Settles O49: CMD is the register at offset 0, and its write is `accept`. -/
theorem cmdWriteIsAccepted : Obligations.CmdWriteIsAccepted :=
  fun _ _ _ hb ha => ⟨_, step_write_idle hb rfl (targetAt_offset .cmd) ha⟩

/-- Settles O50: the fields' sum is below 2^32, so the word has it as its number. -/
theorem statusWordLayout : Obligations.StatusWordLayout := by
  intro s
  have hc := s.errCode.isLt
  have h1 := s.busy.toNat_le
  have h2 := s.err.toNat_le
  have h3 := s.ovr.toNat_le
  have h4 := s.kvalid.toNat_le
  have h5 := s.vkvalid.toNat_le
  rw [statusWord_eq, BitVec.toNat_ofNat, Nat.mod_eq_of_lt (by omega)]

end

section
/-! PROOFS. Reads and writes of the map while BUSY = 0. -/

namespace Sys2Proof.Machine

/-! ## What an idle read answers -/

/-- The response to an aligned or misaligned 32-bit read at an offset while BUSY = 0 (20_memory.md R66, R67, R69). -/
def idleAnswer (off : Nat) (s : State) : BusResponse :=
  match (if off % 4 = 0 then targetAt off else none) with
  | none => .data 0 Config.busErrResp
  | some tgt => .data (readTarget tgt off s) false

theorem idleAnswer_target {off : Nat} {tgt : Target} (s : State) (h4 : off % 4 = 0) (ht : targetAt off = some tgt) :
    idleAnswer off s = .data (readTarget tgt off s) false := by
  rw [idleAnswer, if_pos h4, ht]

theorem offset_aligned (g : Reg) : g.offset % 4 = 0 := by cases g <;> rfl

theorem idleAnswer_reg (g : Reg) (s : State) : idleAnswer g.offset s = .data (readReg g s) false :=
  idleAnswer_target s (offset_aligned g) (targetAt_offset g)

/-- Two states answer alike where the target of the offset, if there is one, reads alike. -/
theorem idleAnswer_congr {off : Nat} {s t : State}
    (h : ∀ tgt, targetAt off = some tgt → readTarget tgt off t = readTarget tgt off s) :
    idleAnswer off t = idleAnswer off s := by
  unfold idleAnswer
  split_ifs
  · cases ht : targetAt off with
    | none => rfl
    | some tgt => simp only [h tgt ht]
  · rfl

/-- The model's own fields are in no register. -/
theorem readReg_setModelFields (g : Reg) (s : State) (is : List Input) (r : Option BusResponse) :
    readReg g { s with inputs := is, resp := r } = readReg g s := by
  cases g <;> rfl

theorem idleAnswer_setModelFields (off : Nat) (s : State) (is : List Input) (r : Option BusResponse) :
    idleAnswer off { s with inputs := is, resp := r } = idleAnswer off s :=
  idleAnswer_congr fun tgt _ =>
    match tgt with
    | .reg g => readReg_setModelFields g s is r
    | .arr _ => rfl

/-- A read while BUSY = 0 gets its answer and changes no register. -/
theorem step_read_idle {s : State} {off : Nat} {rest : List Input} (hb : s.busy = false)
    (ha : NextAccess s off .read rest) :
    step s = .next { s with inputs := rest, resp := some (idleAnswer off s) } := by
  obtain ⟨o, rfl, hs⟩ := step_nextAccess ha
  rw [hs, ← idleAnswer_setModelFields o.toNat s rest s.resp]
  unfold busAccess idleAnswer accessTarget
  simp only [true_and]
  cases (if o.toNat % 4 = 0 then targetAt o.toNat else none) with
  | none => rfl
  | some tgt => exact congrArg _ (readAccess_idle tgt o.toNat hb)

/-! ## The RW registers -/

/-- The RW registers of the map but CMD (20_memory.md R62). -/
def rwRegs : List Reg :=
  [.inlen, .gfA, .gfB, .shift, .vklen, .h0, .h1, .h2, .h3, .mlenLo, .mlenHi, .p, .q, .xLo, .xHi, .yLo, .yHi, .mLo,
    .mHi, .keylen]

/-- The list that claims use, as registers. -/
theorem rwRegisters_eq : rwRegisters = rwRegs.map fun g => (g.offset, g.width) := rfl

theorem reg_of_rwRegisters {off w : Nat} (h : (off, w) ∈ rwRegisters) :
    ∃ g ∈ rwRegs, off = g.offset ∧ w = g.width := by
  rw [rwRegisters_eq] at h
  obtain ⟨g, hg, he⟩ := List.mem_map.1 h
  exact ⟨g, hg, (Prod.mk.inj he).1.symm, (Prod.mk.inj he).2.symm⟩

theorem readReg_writeReg_same {g : Reg} (hg : g ∈ rwRegs) (v : Word) (s : State) :
    readReg g (writeReg g v s) = (v.setWidth g.width).setWidth 32 := by
  have hv : v = (v.setWidth 32).setWidth 32 := by simp
  cases g with
  | inlen | gfA | gfB | shift | vklen | keylen => rfl
  | h0 | h1 | h2 | h3 | p | q => exact hv
  | mlenLo | xLo | yLo | mLo => exact (loWord_setLoWord _ v).trans hv
  | mlenHi | xHi | yHi | mHi => exact (hiWord_setHiWord _ v).trans hv
  | _ => simp [rwRegs] at hg

theorem setWidth_setWidth_eq (v : Word) (w : Nat) :
    (v.setWidth w).setWidth 32 = BitVec.ofNat 32 (v.toNat % 2 ^ w) := by
  apply BitVec.eq_of_toNat_eq
  simp

/-- A write to an RW register reads as before in every other register but STATUS (a valid flag may fall); the two words
of a 64-bit register are apart. -/
theorem readReg_writeReg_other {g g' : Reg} (hg : g ∈ rwRegs) (hne : g' ≠ g) (hs : g' ≠ .status) (v : Word) (s : State) :
    readReg g' (writeReg g v s) = readReg g' s := by
  cases g with
  | inlen | gfA | gfB | shift | vklen | keylen | h0 | h1 | h2 | h3 | p | q =>
    cases g' <;> simp_all [readReg, writeReg]
  | mlenLo | xLo | yLo | mLo => cases g' <;> simp_all [readReg, writeReg, hiWord_setLoWord]
  | mlenHi | xHi | yHi | mHi => cases g' <;> simp_all [readReg, writeReg, loWord_setHiWord]
  | _ => simp [rwRegs] at hg

/-- Only CMD's write touches the handshake. -/
theorem writeReg_handshake {g : Reg} (hg : g ≠ .cmd) (v : Word) (s : State) :
    (writeReg g v s).busy = s.busy ∧ (writeReg g v s).err = s.err ∧ (writeReg g v s).errCode = s.errCode ∧
      (writeReg g v s).ovr = s.ovr ∧ (writeReg g v s).pending = s.pending := by
  rcases writeReg_cases g v s with ⟨h, -⟩ | ⟨-, h⟩ | ⟨-, h⟩ | ⟨-, t, h, ht⟩
  · exact absurd h hg
  · rw [h]; simp
  · rw [h]; simp
  · rw [h, ht]; simp

/-! ## Words of the arrays -/

theorem le32_wordBytes (v : Word) :
    le32 (v.extractLsb' 0 8) (v.extractLsb' 8 8) (v.extractLsb' 16 8) (v.extractLsb' 24 8) = v := by
  apply BitVec.eq_of_toNat_eq
  have := v.isLt
  simp only [le32_eq, BitVec.toNat_ofNat, BitVec.extractLsb'_toNat, Nat.shiftRight_eq_div_pow]
  omega

theorem stored_writeBytes (m : List Host.Cell) (a : Nat) (bs : List Byte) : Stored m (writeBytes m a bs) a bs :=
  ⟨fun _ hi => readByte_writeBytes_inside hi, fun _ hx => readByte_writeBytes_outside hx⟩

/-- A word just stored reads back whole (20_memory.md R63). -/
theorem readArrWord_of_stored {m : List Host.Cell} {t : State} {off : Nat} {v : Word}
    (h : Stored m t.mem off (wordBytes v)) : readArrWord off t = v := by
  obtain ⟨hin, -⟩ := h
  have hin : ∀ i < 4, readByte t.mem (off + i) = (wordBytes v).getD i 0 := hin
  rw [readArrWord, hin 1 (by omega), hin 2 (by omega), hin 3 (by omega), ← Nat.add_zero off, hin 0 (by omega)]
  exact le32_wordBytes v

theorem writeArrWord_rw {b : ByteArr} (h1 : b ≠ .rk) (h2 : b ≠ .obuf) (off : Nat) (v : Word) (s : State) :
    ∃ k vk, writeArrWord b off v s =
      { s with mem := writeBytes s.mem off (wordBytes v), kvalid := k, vkvalid := vk } := by
  cases b with
  | rk => exact absurd rfl h1
  | obuf => exact absurd rfl h2
  | _ => exact ⟨_, _, rfl⟩

theorem target_of_rwArrayWord {off : Nat} (h : RwArrayWord off) :
    off % 4 = 0 ∧ ∃ b, b ≠ .rk ∧ b ≠ .obuf ∧ targetAt off = some (.arr b) := by
  obtain ⟨h4, ⟨h1, h2⟩ | ⟨h1, h2⟩ | ⟨h1, h2⟩ | ⟨h1, h2⟩⟩ := h
  · exact ⟨h4, .vkey, by decide, by decide, targetAt_of_holds h1 (Nat.lt_of_le_of_lt h2 (by decide))⟩
  · exact ⟨h4, .key, by decide, by decide, targetAt_of_holds h1 (Nat.lt_of_le_of_lt h2 (by decide))⟩
  · exact ⟨h4, .state, by decide, by decide, targetAt_of_holds h1 (Nat.lt_of_le_of_lt h2 (by decide))⟩
  · exact ⟨h4, .ibuf, by decide, by decide, targetAt_of_holds h1 (Nat.lt_of_le_of_lt h2 (by decide))⟩

theorem target_of_arrayWord {off : Nat} (h : ArrayWord off) : off % 4 = 0 ∧ ∃ b, targetAt off = some (.arr b) := by
  rcases h with h | ⟨h4, ⟨h1, h2⟩ | ⟨h1, h2⟩⟩
  · obtain ⟨h4, b, -, -, hb⟩ := target_of_rwArrayWord h
    exact ⟨h4, b, hb⟩
  · exact ⟨h4, .rk, targetAt_of_holds h1 (Nat.lt_of_le_of_lt h2 (by decide))⟩
  · exact ⟨h4, .obuf, targetAt_of_holds h1 (Nat.lt_of_le_of_lt h2 (by decide))⟩

/-! ## RO words -/

/-- The RO registers of the map (20_memory.md R62). -/
def roRegs : List Reg :=
  [.status, .outlen, .gfP, .vkidx, .e, .nLo, .nHi, .phiLo, .phiHi, .dLo, .dHi, .rLo, .rHi, .nr]

theorem writeReg_ro {g : Reg} (hg : g ∈ roRegs) (v : Word) (s : State) : writeReg g v s = s := by
  cases g with
  | status | outlen | gfP | vkidx | e | nLo | nHi | phiLo | phiHi | dLo | dHi | rLo | rHi | nr => rfl
  | _ => simp [roRegs] at hg

/-- The RO words are the RO registers and the words of RK and OBUF. -/
theorem roWord_cases {off : Nat} (h : RoWord off) :
    (∃ g ∈ roRegs, off = g.offset) ∨ targetAt off = some (.arr .rk) ∨ targetAt off = some (.arr .obuf) := by
  by_cases hrk : 0x0400 ≤ off ∧ off ≤ 0x04EC
  · exact .inr (.inl (targetAt_of_holds hrk.1 (Nat.lt_of_le_of_lt hrk.2 (by decide))))
  by_cases hob : 0x2000 ≤ off ∧ off ≤ 0x2FFC
  · exact .inr (.inr (targetAt_of_holds hob.1 (Nat.lt_of_le_of_lt hob.2 (by decide))))
  refine .inl ?_
  have hmem : off ∈ roRegs.map Reg.offset := by
    simp only [roRegs, List.map_cons, List.map_nil, Reg.offset, List.mem_cons, List.not_mem_nil, or_false]
    unfold RoWord at h
    omega
  obtain ⟨g, hg, he⟩ := List.mem_map.1 hmem
  exact ⟨g, hg, he.symm⟩

theorem target_of_roWord {off : Nat} (h : RoWord off) :
    ∃ tgt, targetAt off = some tgt ∧ ∀ v s, writeTarget tgt off v s = s := by
  rcases roWord_cases h with ⟨g, hg, rfl⟩ | ht | ht
  · exact ⟨_, targetAt_offset g, fun v s => writeReg_ro hg v s⟩
  · exact ⟨_, ht, fun _ _ => rfl⟩
  · exact ⟨_, ht, fun _ _ => rfl⟩

/-! ## The claim, clause by clause -/

/-- What an RW register's write leaves as it was for every other offset but STATUS. -/
theorem idleAnswer_writeReg_other {g : Reg} {off : Nat} (hg : g ∈ rwRegs) (hne : off ≠ g.offset) (hs : off ≠ 0x0004)
    (v : Word) (s : State) : idleAnswer off (writeReg g v s) = idleAnswer off s := by
  refine idleAnswer_congr fun tgt ht => ?_
  cases tgt with
  | reg g' =>
    obtain rfl := targetAt_reg ht
    exact readReg_writeReg_other hg (fun h => hne (h ▸ rfl)) (fun h => hs (h ▸ rfl)) v s
  | arr b => simp only [readTarget, readArrWord, writeReg_mem]

theorem rwRegister_written {s : State} {off w : Nat} {v : Word} {rest : List Input} (hb : s.busy = false)
    (hw : (off, w) ∈ rwRegisters) (ha : NextAccess s off (.write v) rest) :
    ∃ t, step s = .next t ∧ t.mem = s.mem ∧ t.inputs = rest ∧ t.draws = s.draws ∧ t.busy = false ∧ t.err = s.err ∧
      t.errCode = s.errCode ∧ t.ovr = s.ovr ∧ t.pending = s.pending ∧
      (∀ rest', NextAccess t off .read rest' →
        step t = .next { t with inputs := rest', resp := some (.data (BitVec.ofNat 32 (v.toNat % 2 ^ w)) false) }) ∧
      ∀ off' rest', off' ≠ off → off' ≠ 0x0004 → NextAccess t off' .read rest' →
        ∃ r, step t = .next { t with inputs := rest', resp := r } ∧
          step { s with inputs := t.inputs } = .next { s with inputs := rest', resp := r } := by
  obtain ⟨g, hg, rfl, rfl⟩ := reg_of_rwRegisters hw
  have hcmd : g ≠ .cmd := by rintro rfl; simp [rwRegs] at hg
  obtain ⟨hbusy, herr, hcode, hovr, hpend⟩ := writeReg_handshake hcmd v { s with inputs := rest }
  obtain ⟨t, ht⟩ : ∃ t, t = { writeReg g v { s with inputs := rest } with resp := some (.done false) } := ⟨_, rfl⟩
  have hstep : step s = .next t := ht ▸ step_write_idle hb (offset_aligned g) (targetAt_offset g) ha
  have hbt : t.busy = false := by rw [ht]; exact hbusy.trans hb
  have hans (off' : Nat) : idleAnswer off' t = idleAnswer off' (writeReg g v { s with inputs := rest }) := by
    rw [ht]; exact idleAnswer_setModelFields ..
  refine ⟨t, hstep, ?_, ?_, ?_, hbt, ?_, ?_, ?_, ?_, fun rest' ha' => ?_, fun off' rest' hne hs ha' => ?_⟩
  · rw [ht]; exact writeReg_mem ..
  · rw [ht]; exact writeReg_inputs ..
  · rw [ht]; exact writeReg_draws ..
  · rw [ht]; exact herr
  · rw [ht]; exact hcode
  · rw [ht]; exact hovr
  · rw [ht]; exact hpend
  · rw [step_read_idle hbt ha', hans, idleAnswer_reg, readReg_writeReg_same hg, setWidth_setWidth_eq]
  · refine ⟨_, step_read_idle hbt ha', ?_⟩
    have hsame : idleAnswer off' t = idleAnswer off' { s with inputs := t.inputs } := by
      rw [hans, idleAnswer_writeReg_other hg hne hs, idleAnswer_setModelFields off' s rest s.resp,
        idleAnswer_setModelFields off' s t.inputs s.resp]
    rw [hsame]
    exact step_read_idle (s := { s with inputs := t.inputs }) hb ha'

theorem rwArrayWord_written {s : State} {off : Nat} {v : Word} {rest : List Input} (hb : s.busy = false)
    (hw : RwArrayWord off) (ha : NextAccess s off (.write v) rest) :
    ∃ t, step s = .next t ∧
      t = { s with mem := t.mem, inputs := rest, resp := t.resp, kvalid := t.kvalid, vkvalid := t.vkvalid } ∧
      Stored s.mem t.mem off (wordBytes v) ∧
      ∀ rest', NextAccess t off .read rest' →
        step t = .next { t with inputs := rest', resp := some (.data v false) } := by
  obtain ⟨h4, b, hrk, hob, htgt⟩ := target_of_rwArrayWord hw
  obtain ⟨k, vk, hwrite⟩ := writeArrWord_rw hrk hob off v { s with inputs := rest }
  obtain ⟨t, ht⟩ : ∃ t, t = { s with
      mem := writeBytes s.mem off (wordBytes v), kvalid := k, vkvalid := vk, inputs := rest
      resp := some (.done false) } := ⟨_, rfl⟩
  have hstep : step s = .next t := by
    rw [step_write_idle hb h4 htgt ha, writeTarget, hwrite, ht]
  have hstored : Stored s.mem t.mem off (wordBytes v) := by rw [ht]; exact stored_writeBytes ..
  refine ⟨t, hstep, by rw [ht], hstored, fun rest' ha' => ?_⟩
  have hbt : t.busy = false := by rw [ht]; exact hb
  rw [step_read_idle hbt ha', idleAnswer_target t h4 htgt, readTarget, readArrWord_of_stored hstored]

theorem roWord_written {s : State} {off : Nat} {v : Word} {rest : List Input} (hb : s.busy = false) (hw : RoWord off)
    (ha : NextAccess s off (.write v) rest) : ∃ r, step s = .next { s with inputs := rest, resp := r } := by
  obtain ⟨tgt, htgt, hro⟩ := target_of_roWord hw
  exact ⟨_, by rw [step_write_idle hb hw.1 htgt ha, hro]⟩

theorem idleReads_read {s : State} {off n : Nat} {rest : List Input} (hb : s.busy = false)
    (hn : (off, n) ∈ idleReads s) (ha : NextAccess s off .read rest) :
    step s = .next { s with inputs := rest, resp := some (.data (BitVec.ofNat 32 n) false) } := by
  obtain ⟨g, rfl, hg⟩ := readReg_of_idleReads hn
  rw [step_read_idle hb ha, idleAnswer_reg, hg]

theorem arrayWord_read {s : State} {off : Nat} {rest : List Input} (hb : s.busy = false) (hw : ArrayWord off)
    (ha : NextAccess s off .read rest) :
    step s = .next { s with inputs := rest, resp := some (.data (readArrWord off s) false) } := by
  obtain ⟨h4, b, htgt⟩ := target_of_arrayWord hw
  rw [step_read_idle hb ha, idleAnswer_target s h4 htgt, readTarget]

theorem reg_read {s : State} {g : Reg} {rest : List Input} (hb : s.busy = false)
    (ha : NextAccess s g.offset .read rest) :
    step s = .next { s with inputs := rest, resp := some (.data (readReg g s) false) } := by
  rw [step_read_idle hb ha, idleAnswer_reg]

end Sys2Proof.Machine

open Sys2Proof Sys2Proof.Machine

/-- Settles O51, clause by clause: an idle read answers what its offset's target holds, and a write to one target leaves
the others as they are. -/
theorem registersReadBackWhatWasWritten : Obligations.RegistersReadBackWhatWasWritten :=
  fun s off _ _ hb =>
    ⟨fun _ hw ha => rwRegister_written hb hw ha,
      fun hw ha => rwArrayWord_written hb hw ha,
      fun hw ha => roWord_written hb hw ha,
      fun _ hn ha => idleReads_read hb hn ha,
      fun hw ha => by rw [arrayWord_read hb hw ha, readArrWord, le32_eq],
      fun ha => reg_read (g := .e) hb ha,
      fun ha => reg_read (g := .cmd) hb ha⟩

end

section
/-! PROOFS. The bus window and its bus errors, the delivery of the events, and the canonical form of the memory. -/

namespace Sys2Proof.Machine

/-! ## The window and its bus errors -/

/-- BASE is the start of a slot of the window's size, whichever slot that is (log 4). -/
theorem base_mod_window : Config.base % 0x4000 = 0 := by
  rw [Config.base, Config.winBytes, Nat.mul_mod_left]

/-- The bus addresses that reach the core are the window of 0x4000 bytes at BASE (20_memory.md R61). -/
theorem offsetOf_eq_none_iff (addr : Nat) :
    offsetOf addr = none ↔ addr < Config.base ∨ Config.base + 0x4000 ≤ addr := by
  have hsize : Config.winBytes = 0x4000 := rfl
  rw [offsetOf, hsize]
  split
  · next hin => exact iff_of_false (Option.some_ne_none _) (by omega)
  · next hout => exact iff_of_true rfl (by omega)

theorem offsetOf_base_add (off : Offset) : offsetOf (Config.base + off.toNat) = some off := by
  have hlt : off.toNat < Config.winBytes := off.isLt
  rw [offsetOf, if_pos ⟨by omega, by omega⟩, Nat.add_sub_cancel_left, BitVec.ofNat_toNat, BitVec.setWidth_eq]

/-- The bus errors are the accesses that are narrow, misaligned or at an unmapped offset (R66, R67). -/
theorem accessTarget_eq_none_iff (a : Access) :
    accessTarget a = none ↔ a.size ≠ 4 ∨ a.off.toNat % 4 ≠ 0 ∨ ¬ MappedOffset a.off.toNat := by
  by_cases hc : a.size = 4 ∧ a.off.toNat % 4 = 0
  · obtain ⟨hsize, h4⟩ := hc
    rw [accessTarget_of_aligned hsize h4, ← targetAt_isSome_iff h4, Option.not_isSome_iff_eq_none]
    simp [hsize, h4]
  · rw [accessTarget, if_neg hc]
    tauto

theorem busAccess_of_no_target {a : Access} (h : accessTarget a = none) (s : State) :
    busAccess a s = busError a.op s := by
  rw [busAccess, h]

/-! ## The next event -/

theorem step_access {s : State} {a : Access} {rest : List Input} (h : s.inputs = .access a :: rest) :
    step s = .next (busAccess a { s with inputs := rest }) := by
  simp only [step, nextEvent, h]

/-- An engine event, or the end of the events, changes nothing more while BUSY = 0 (10_state.md R26). -/
theorem step_engineTurn_idle {s u : State} (hb : s.busy = false) (h : EngineTurn s u) : step s = .next u := by
  rcases h with ⟨hi, rfl⟩ | ⟨rest, hi, rfl⟩ <;> simp [step, nextEvent, hi, engineTurn, hb]

/-! ## The canonical form of the memory -/

theorem wf_expandKey {s : State} (h : Memory.wf s.mem) (hk : legalKeyLength s.keylen.toNat = true) :
    Memory.wf (expandKey s).mem :=
  wf_putArr (b := .rk) h (length_schedule hk).le

/-- A command stores in one array at a time, from its start and within its size. -/
theorem wf_commandWrites {i : Instr} {s u : State} (h : Memory.wf s.mem) (hw : CommandWrites s i u) :
    Memory.wf u.mem := by
  cases hw with
  | results _ ht => exact (congrArg State.mem ht :) ▸ h
  | clrst => exact h
  | output _ ht hl => exact wf_putArr (b := .obuf) ((congrArg State.mem ht :) ▸ h) hl
  | keyword _ hle _ => exact wf_putArr (b := .vkey) h (length_paddedKeyword hle).le
  | vigenere _ hl _ _ => exact wf_putArr (b := .obuf) h hl
  | schedule hk => exact wf_expandKey h hk
  | block _ hl => exact wf_putArr (b := .state) h hl.le
  | cipher _ hk hl =>
    have hblock := wf_putArr (b := .state) (wf_expandKey h hk) hl.le
    exact wf_putArr (b := .obuf) hblock (by rw [hl]; decide)
  | rsaKey => exact h

theorem wf_writeTarget {s : State} {tgt : Target} {off : Nat} {v : Word} (h : Memory.wf s.mem) (h4 : off % 4 = 0)
    (ht : targetAt off = some tgt) : Memory.wf (writeTarget tgt off v s).mem := by
  cases tgt with
  | reg g => exact (writeReg_mem g v s).symm ▸ h
  | arr b => exact wf_writeArrWord h ht h4

theorem wf_engineTurn {s u : State} (h : Memory.wf s.mem) (hu : EngineTurn s u) : Memory.wf u.mem :=
  (congrArg State.mem hu.eq :) ▸ h

theorem wf_stepEffect {s t : State} (h : Memory.wf s.mem) (ht : StepEffect s t) : Memory.wf t.mem := by
  cases ht with
  | idle _ hu => exact wf_engineTurn h hu
  | @failed u c _ hu _ => exact (fail_mem c u).symm ▸ wf_engineTurn h hu
  | @command u v i _ hu _ hw => exact (complete_mem v).symm ▸ wf_commandWrites (wf_engineTurn h hu) hw
  | answer => exact h
  | overrun => exact h
  | @write _ _ _ rest _ h4 htgt _ => exact wf_writeTarget (s := { s with inputs := rest }) h h4 htgt
  | reset => exact wf_powerOnMemory _

end Sys2Proof.Machine

open Sys2Proof Sys2Proof.Machine

/-- Settles O45: BASE is a slot number times 0x4000, and the window is exactly the addresses of `offsetOf_eq_none_iff`. -/
theorem busAddressReachesOffset : Obligations.BusAddressReachesOffset :=
  ⟨base_mod_window, offsetOf_base_add, fun addr => (offsetOf_eq_none_iff addr).2⟩

/-- Settles O6: the three kinds of event, and the end of the events. -/
theorem stepDeliversEventsInOrder : Obligations.StepDeliversEventsInOrder :=
  fun _ rest =>
    ⟨fun _ => step_access, fun _ => step_reset,
      fun hb hi => step_engineTurn_idle hb (.inr ⟨rest, hi, rfl⟩),
      fun hb hi => step_engineTurn_idle hb (.inl ⟨hi, rfl⟩)⟩

/-- Settles O46: such an access has no target, and without one only the response is written. -/
theorem badAccessChangesNothing : Obligations.BadAccessChangesNothing := by
  intro s a rest hi hbad
  have herr : step s = .next (busError a.op { s with inputs := rest }) := by
    rw [step_access hi, busAccess_of_no_target ((accessTarget_eq_none_iff a).2 hbad)]
  exact ⟨fun hop => by rw [herr, hop, busError], fun v hop => by rw [herr, hop, busError]⟩

/-- Settles O58, over the cases of a step. -/
theorem stepKeepsMemoryCanonical : Obligations.StepKeepsMemoryCanonical :=
  fun _ _ h hs => wf_stepEffect h (step_effect hs)

end

section
/-! PROOFS. The command encoding (30_encoding.md R91 to R98): the decoder and the encoder are inverse to each other, and
the words the decoder accepts are the legal ones. -/

namespace Sys2Proof

open Machine

/-! ## The fields of a word as numbers (R91) -/

theorem toNat_opField (w : Word) : (opField w).toNat = w.toNat % 2 ^ 8 := by
  simp [opField]

theorem toNat_argField (w : Word) : (argField w).toNat = w.toNat / 2 ^ 8 % 2 ^ 8 := by
  simp [argField, Nat.shiftRight_eq_div_pow]

theorem rsvField_eq_zero_iff (w : Word) : rsvField w = 0 ↔ w.toNat / 2 ^ 16 = 0 := by
  have hw : w.toNat / 2 ^ 16 < 2 ^ 16 := by omega
  rw [← BitVec.toNat_inj, rsvField, BitVec.extractLsb'_toNat, Nat.shiftRight_eq_div_pow, Nat.mod_eq_of_lt hw]
  exact Iff.rfl

theorem argField_eq_zero_iff (w : Word) : argField w = 0 ↔ w.toNat / 2 ^ 8 % 2 ^ 8 = 0 := by
  rw [← BitVec.toNat_inj, toNat_argField]
  exact Iff.rfl

theorem opField_eq_opAddrk_iff (w : Word) : opField w = opAddrk ↔ w.toNat % 2 ^ 8 = 0x53 := by
  rw [← BitVec.toNat_inj, toNat_opField]
  exact Iff.rfl

/-! ## OP and ARG of a command (R93, R95) -/

/-- A command is well formed when its ARG value fits the ARG field. -/
theorem Instr.wellFormed_iff_arg_le (i : Instr) : i.wellFormed = true ↔ i.arg ≤ 255 := by
  cases i with
  | aesAddrk r => exact decide_eq_true_iff
  | _ => exact iff_of_true rfl (Nat.zero_le _)

/-- AES_ADDRK is the one command with an ARG. -/
theorem Instr.arg_eq_zero_or_op_eq (i : Instr) : i.arg = 0 ∨ i.op = opAddrk := by
  cases i with
  | aesAddrk r => exact .inr rfl
  | _ => exact .inl rfl

theorem Instr.op_mem_opValues (i : Instr) : i.op.toNat ∈ opValues := by
  cases i <;> simp [Instr.op, opValues]

theorem opMap_eq_some_op_arg {op : Byte} {k : Nat} {i : Instr} (h : opMap op k = some i) (hk : k = 0 ∨ op = opAddrk) :
    i.op = op ∧ i.arg = k := by
  obtain ⟨hop, haddrk, hother⟩ := opMap_some h
  refine ⟨hop, ?_⟩
  by_cases ho : op = opAddrk
  · rw [haddrk ho, Instr.arg]
  · rw [hother ho, hk.resolve_right ho]

/-- The opcode map has a command at exactly the 30 OP values (R95). -/
theorem exists_opMap_iff (op : Byte) (k : Nat) : (∃ i, opMap op k = some i) ↔ op.toNat ∈ opValues := by
  constructor
  · rintro ⟨i, hi⟩
    exact (opMap_some hi).1 ▸ i.op_mem_opValues
  · intro hop
    cases hm : opMap op k with
    | some i => exact ⟨i, rfl⟩
    | none =>
      -- every row of the map answers `some`, and the last arm is reached only by an OP outside the list
      unfold opMap at hm
      split at hm <;> simp_all [opValues]

/-! ## The decoder against the encoder (R97, R98) -/

open Laws in
/-- The fields of every well-formed command's word. -/
theorem encode_fields (i : Instr) : EncodeFields.Statement i :=
  match i with
  | .nop => EncodeFields.nop
  | .clrst => EncodeFields.clrst
  | .gfMul => EncodeFields.gfMul
  | .caesEnc => EncodeFields.caesEnc
  | .caesDec => EncodeFields.caesDec
  | .vigKey => EncodeFields.vigKey
  | .vigEnc => EncodeFields.vigEnc
  | .vigDec => EncodeFields.vigDec
  | .b64Enc => EncodeFields.b64Enc
  | .b64Dec => EncodeFields.b64Dec
  | .md5Init => EncodeFields.md5Init
  | .md5Update => EncodeFields.md5Update
  | .md5Final => EncodeFields.md5Final
  | .aesKeyexp => EncodeFields.aesKeyexp
  | .aesLoad => EncodeFields.aesLoad
  | .aesStore => EncodeFields.aesStore
  | .aesAddrk r => EncodeFields.aesAddrk r
  | .aesSubbytes => EncodeFields.aesSubbytes
  | .aesInvsubbytes => EncodeFields.aesInvsubbytes
  | .aesShiftrows => EncodeFields.aesShiftrows
  | .aesInvshiftrows => EncodeFields.aesInvshiftrows
  | .aesMixcolumns => EncodeFields.aesMixcolumns
  | .aesInvmixcolumns => EncodeFields.aesInvmixcolumns
  | .aesEnc => EncodeFields.aesEnc
  | .aesDec => EncodeFields.aesDec
  | .rsaKeygen => EncodeFields.rsaKeygen
  | .rsaEnc => EncodeFields.rsaEnc
  | .rsaDec => EncodeFields.rsaDec
  | .rsaModexp => EncodeFields.rsaModexp
  | .rsaModinv => EncodeFields.rsaModinv

/-- A decoded command has the word's OP and ARG, and the word has nothing else. -/
theorem decode_ok_fields {w : Word} {i : Instr} (h : decode w = .ok i) :
    i.op = opField w ∧ i.arg = (argField w).toNat ∧ rsvField w = 0 := by
  obtain ⟨hrsv, hmap, harg⟩ := (decode_ok_iff w i).1 h
  obtain ⟨hop, ha⟩ := opMap_eq_some_op_arg hmap (harg.imp_left (congrArg BitVec.toNat))
  exact ⟨hop, ha, hrsv⟩

theorem wellFormed_of_decode_ok {w : Word} {i : Instr} (h : decode w = .ok i) : i.wellFormed = true := by
  obtain ⟨-, harg, -⟩ := decode_ok_fields h
  rw [i.wellFormed_iff_arg_le, harg]
  exact Nat.le_of_lt_succ (argField w).isLt

theorem encode_of_decode_ok {w : Word} {i : Instr} (h : decode w = .ok i) : encode i = w := by
  obtain ⟨hop, harg, hrsv⟩ := decode_ok_fields h
  obtain ⟨eop, earg, ersv⟩ := encode_fields i (wellFormed_of_decode_ok h)
  refine word_eq_of_fields (eop.trans hop) ?_ (ersv.trans hrsv.symm)
  rw [earg, harg, BitVec.ofNat_toNat, BitVec.setWidth_eq]

theorem decode_encode {i : Instr} (h : i.wellFormed = true) : decode (encode i) = .ok i := by
  obtain ⟨eop, earg, ersv⟩ := encode_fields i h
  have hle : i.arg ≤ 255 := i.wellFormed_iff_arg_le.1 h
  have harg : (argField (encode i)).toNat = i.arg := by
    rw [earg, BitVec.toNat_ofNat, Nat.mod_eq_of_lt (Nat.lt_succ_of_le hle)]
  refine (decode_ok_iff _ i).2 ⟨ersv, ?_, ?_⟩
  · rw [eop, harg, opMap_op]
  · rw [earg, eop]
    exact i.arg_eq_zero_or_op_eq.imp_left (congrArg (BitVec.ofNat 8))

/-! ## The words the decoder accepts (R96) -/

/-- The three conditions of R96 are those of `decode_ok_iff`, field by field. -/
theorem exists_decode_ok_iff_legalWord (w : Word) : (∃ i, decode w = .ok i) ↔ LegalWord w := by
  simp only [decode_ok_iff, exists_and_left, exists_and_right, exists_opMap_iff, rsvField_eq_zero_iff, toNat_opField,
    argField_eq_zero_iff, opField_eq_opAddrk_iff, LegalWord]

end Sys2Proof

open Sys2Proof Sys2Proof.Machine

/-- Settles O2: `decode_encode`, and the way back from the fields of an accepted word. -/
theorem decodeInvertsEncode : Obligations.DecodeInvertsEncode := by
  refine fun w i => ⟨fun h => ⟨wellFormed_of_decode_ok h, encode_of_decode_ok h⟩, ?_⟩
  rintro ⟨hwf, rfl⟩
  exact decode_encode hwf

/-- Settles O3: the decoder accepts exactly the legal words, and what it accepts has the word's OP and ARG. -/
theorem decodeFollowsTheMap : Obligations.DecodeFollowsTheMap := by
  refine fun w => ⟨fun hlegal => ?_, fun hillegal => ?_⟩
  · obtain ⟨i, hi⟩ := (exists_decode_ok_iff_legalWord w).2 hlegal
    obtain ⟨hop, harg, -⟩ := decode_ok_fields hi
    exact ⟨i, hi, hop ▸ toNat_opField w, harg.trans (toNat_argField w)⟩
  · cases hd : decode w with
    | error e => exact ⟨e, rfl⟩
    | ok i => exact absurd ((exists_decode_ok_iff_legalWord w).1 ⟨i, hd⟩) hillegal

/-- Settles O1, by running the decoder and the encoder on the fixed words. -/
theorem specWordsDecode : Obligations.SpecWordsDecode := by
  unfold Obligations.SpecWordsDecode
  and_intros <;> decide

end

section
/-! PROOFS. The control commands NOP and CLRST (40_control_gf.md R111, R112). -/

namespace Sys2Proof.Machine

/-- The engine's step runs the command that PENDING decodes to (70_reset_and_hazards.md R283). -/
theorem step_engineTurn_command {s u : State} {i : Instr} (hb : s.busy = true) (hu : EngineTurn s u)
    (hd : decode s.pending = .ok i) : step s = exec i u := by
  have hp : u.pending = s.pending := (congrArg State.pending hu.eq :)
  rw [step_engineTurn hb hu, engineStep, hp, hd]

/-- A command word written to CMD while BUSY = 0, with the engine's turn next, is accepted and then executed. -/
theorem step_accept_then_exec {s : State} {v : Word} {i : Instr} {rest : List Input} (hb : s.busy = false)
    (ha : NextAccess s 0x0000 (.write v) (.engine :: rest)) (hd : decode v = .ok i) :
    ∃ t, step s = .next t ∧ step t = exec i { accept v s with inputs := rest, resp := some (.done false) } :=
  ⟨_, step_write_idle hb rfl (targetAt_offset .cmd) ha, step_engineTurn_command rfl (.inr ⟨rest, rfl, rfl⟩) hd⟩

/-- A write to a mapped offset while BUSY = 1, with the engine's turn next, sets OVR, and the pending command is then
executed as if nothing else had been written. -/
theorem step_overrun_then_exec {s : State} {off : Nat} {v : Word} {i : Instr} {rest : List Input} (hb : s.busy = true)
    (hm : MappedOffset off) (ha : NextAccess s off (.write v) (.engine :: rest)) (hd : decode s.pending = .ok i) :
    ∃ t, step s = .next t ∧ t.ovr = true ∧
      step t = exec i { s with inputs := rest, ovr := true, resp := some (.done false) } :=
  ⟨_, step_write_busy hb hm ha, rfl, step_engineTurn_command hb (.inr ⟨rest, rfl, rfl⟩) hd⟩

theorem exec_nop (s : State) : exec .nop s = .next { s with busy := false } := rfl

theorem exec_clrst (s : State) : exec .clrst s = .next { s with ovr := false, busy := false } := rfl

/-- No other command than CLRST changes OVR, not even by failing (R112). -/
theorem exec_ovr_eq {i : Instr} {s t : State} (h : exec i s = .next t) (hi : i ≠ .clrst) : t.ovr = s.ovr := by
  rcases exec_cases h with ⟨c, -, rfl⟩ | ⟨u, hw, rfl⟩
  · rfl
  · exact hw.ovr_eq hi

theorem mappedOffset_cmd : MappedOffset 0x0000 := ⟨rfl, .inl (by decide)⟩

theorem decode_nop : decode 0x00000000 = .ok .nop := by decide

theorem decode_clrst : decode 0x00000001 = .ok .clrst := by decide

end Sys2Proof.Machine

open Sys2Proof Sys2Proof.Machine

/-- Settles O10: while BUSY = 1 the CMD write is an overrun; otherwise acceptance clears ERR and ERRCODE, and the NOP
only completes. -/
theorem nopOnlyCompletes : Obligations.NopOnlyCompletes := by
  refine ⟨decode_nop, exec_nop, fun s rest hb ha => ⟨_, step_write_busy hb mappedOffset_cmd ha⟩,
    fun s rest hb ha => ?_⟩
  obtain ⟨t, haccept, hexec⟩ := step_accept_then_exec hb ha decode_nop
  refine ⟨t, some (.done false), haccept, ?_⟩
  rw [hexec, exec_nop, accept, hb]

/-- Settles O11: the write during CLRST's own BUSY is an overrun, and the engine's step comes after it. -/
theorem clrstClearsOvr : Obligations.ClrstClearsOvr := by
  refine ⟨decode_clrst, exec_clrst, fun i s t => exec_ovr_eq, fun s off v rest hb hp hm ha => ?_⟩
  obtain ⟨t, hwrite, hovr, hexec⟩ := step_overrun_then_exec hb hm ha (hp ▸ decode_clrst)
  rw [exec_clrst] at hexec
  exact ⟨t, _, hwrite, hovr, hexec, rfl, rfl⟩

end

section
/-! PROOFS. The product of bytes (40_control_gf.md R113 to R117): `gmul` is the product of polynomials over GF(2)
modulo `m(x)`, and its laws are those of that ring. -/

namespace Sys2Proof.Machine

open Polynomial

/-! ## Bytes as polynomials over GF(2) (R114) -/

/-- The polynomial whose coefficients are the `k` bits of `b` from bit `i` upward. -/
noncomputable def bitsPoly (b : Byte) (i k : Nat) : (ZMod 2)[X] :=
  ∑ j ∈ Finset.range k, if b.getLsbD (i + j) then X ^ j else 0

/-- The polynomial of a byte. -/
noncomputable def bytePoly (b : Byte) : (ZMod 2)[X] := bitsPoly b 0 8

/-- `m(x)`. -/
noncomputable def gfModulus : (ZMod 2)[X] := X ^ 8 + X ^ 4 + X ^ 3 + X + 1

theorem bytePoly_eq (b : Byte) : bytePoly b = ∑ k ∈ Finset.range 8, if b.getLsbD k then X ^ k else 0 := by
  simp only [bytePoly, bitsPoly, Nat.zero_add]

theorem bitsPoly_succ (b : Byte) (i k : Nat) :
    bitsPoly b i (k + 1) = (if b.getLsbD i then 1 else 0) + X * bitsPoly b (i + 1) k := by
  rw [bitsPoly, Finset.sum_range_succ', add_comm, bitsPoly, Finset.mul_sum]
  congr 1
  refine Finset.sum_congr rfl fun j _ => ?_
  rw [mul_ite, mul_zero, pow_succ', Nat.add_assoc, Nat.add_comm j]

theorem bytePoly_xor (a b : Byte) : bytePoly (a ^^^ b) = bytePoly a + bytePoly b := by
  simp only [bytePoly_eq, ← Finset.sum_add_distrib, BitVec.getLsbD_xor]
  refine Finset.sum_congr rfl fun k _ => ?_
  cases a.getLsbD k <;> cases b.getLsbD k <;> simp [CharTwo.add_self_eq_zero]

theorem coeff_bytePoly (b : Byte) (k : Nat) : (bytePoly b).coeff k = if b.getLsbD k then 1 else 0 := by
  have hcoeff : ∀ j, (if b.getLsbD j then (X : (ZMod 2)[X]) ^ j else 0).coeff k =
      if j = k then (if b.getLsbD k then 1 else 0) else 0 := by
    intro j
    by_cases hj : j = k
    · subst hj; cases b.getLsbD j <;> simp
    · cases b.getLsbD j <;> simp [hj, coeff_X_pow, Ne.symm hj]
  rw [bytePoly_eq, finsetSum_coeff, Finset.sum_congr rfl fun j _ => hcoeff j, Finset.sum_ite_eq']
  split
  · rfl
  · next hk => rw [BitVec.getLsbD_of_ge b k (by simpa using hk), if_neg (by decide)]

theorem bytePoly_eq_zero {b : Byte} (h : bytePoly b = 0) : b = 0 := by
  refine BitVec.eq_of_getLsbD_eq fun k _ => ?_
  have hk := coeff_bytePoly b k
  rw [h, coeff_zero] at hk
  cases hb : b.getLsbD k with
  | false => simp
  | true => simp [hb] at hk

theorem degree_bytePoly_lt (b : Byte) : (bytePoly b).degree < 8 :=
  (degree_lt_iff_coeff_zero _ 8).2 fun k hk => by
    rw [coeff_bytePoly, BitVec.getLsbD_of_ge b k hk, if_neg (by decide)]

theorem degree_gfModulus : gfModulus.degree = 8 := by
  rw [gfModulus]
  compute_degree!

/-! ## The ring of polynomials modulo `m(x)` -/

/-- The class of a byte's polynomial modulo `m(x)`. -/
noncomputable def gfClass (b : Byte) : AdjoinRoot gfModulus := AdjoinRoot.mk gfModulus (bytePoly b)

theorem gfClass_xor (a b : Byte) : gfClass (a ^^^ b) = gfClass a + gfClass b := by
  rw [gfClass, bytePoly_xor, map_add, gfClass, gfClass]

/-- Bytes are polynomials of degree below that of `m(x)`, so no two of them are congruent. -/
theorem gfClass_injective : Function.Injective gfClass := by
  intro a b h
  have hdvd : gfModulus ∣ bytePoly (a ^^^ b) := by
    rw [bytePoly_xor, ← CharTwo.sub_eq_add, ← AdjoinRoot.mk_eq_mk]
    exact h
  have hzero := eq_zero_of_dvd_of_degree_lt hdvd (degree_gfModulus ▸ degree_bytePoly_lt _)
  exact BitVec.xor_eq_zero_iff.1 (bytePoly_eq_zero hzero)

@[simp] theorem gfClass_zero : gfClass 0x00 = 0 := by
  simp [gfClass, bytePoly_eq]

@[simp] theorem gfClass_one : gfClass 0x01 = 1 := by
  simp [gfClass, bytePoly, bitsPoly]

theorem X_mul_bytePoly (a : Byte) :
    X * bytePoly a = bytePoly (a <<< 1) + if a.getLsbD 7 then X ^ 8 else 0 := by
  have hlow : bytePoly (a <<< 1) = X * bitsPoly a 0 7 := by
    rw [bytePoly, bitsPoly_succ, bitsPoly, bitsPoly]
    have hbit : ∀ k ∈ Finset.range 7, (a <<< 1).getLsbD (0 + 1 + k) = a.getLsbD (0 + k) := fun k hk => by
      have hk : 1 + k < 8 := by have := Finset.mem_range.1 hk; omega
      simp [hk, -BitVec.getLsbD_eq_getElem]
    rw [Finset.sum_congr rfl fun k hk => by rw [hbit k hk]]
    simp
  rw [hlow, bytePoly, bitsPoly, Finset.sum_range_succ, mul_add, bitsPoly, mul_ite, mul_zero, ← pow_succ']

/-- Modulo `m(x)`, `x^8` is `x^4 + x^3 + x + 1`. -/
theorem mk_X_pow_eight : AdjoinRoot.mk gfModulus (X ^ 8) = gfClass 0x1B := by
  have h1B : bytePoly 0x1B = X ^ 4 + X ^ 3 + X + 1 := by
    simp [bytePoly_eq, Finset.sum_range_succ', BitVec.getLsbD, Nat.testBit_eq_decide_div_mod_eq]
  rw [gfClass, AdjoinRoot.mk_eq_mk, h1B, CharTwo.sub_eq_add, gfModulus]
  simp only [add_assoc, dvd_refl]

/-- `xtime` multiplies by `x` (R115). -/
theorem gfClass_xtime (a : Byte) : gfClass (xtime a) = AdjoinRoot.root gfModulus * gfClass a := by
  have hshift : AdjoinRoot.root gfModulus * gfClass a =
      gfClass (a <<< 1) + if a.getLsbD 7 then gfClass 0x1B else 0 := by
    rw [gfClass, ← AdjoinRoot.mk_X, ← map_mul, X_mul_bytePoly, map_add, apply_ite (AdjoinRoot.mk gfModulus),
      mk_X_pow_eight, map_zero, ← gfClass]
  rw [xtime, hshift]
  split
  · exact gfClass_xor ..
  · exact (add_zero _).symm

/-- The loop of R116 adds to the partial product `t` times the bits of `b` that are left. -/
theorem gfClass_gmulLoop (b : Byte) (k i : Nat) (t p : Byte) :
    gfClass (gmulLoop b k i t p) = gfClass p + gfClass t * AdjoinRoot.mk gfModulus (bitsPoly b i k) := by
  induction k generalizing i t p with
  | zero => simp [gmulLoop, bitsPoly]
  | succ k ih =>
    rw [gmulLoop, ih, gfClass_xtime, bitsPoly_succ, map_add, map_mul, AdjoinRoot.mk_X]
    cases b.getLsbD i with
    | false => simp only [Bool.false_eq_true, if_false, map_zero]; ring
    | true => simp only [if_true, gfClass_xor, map_one]; ring

/-- The byte product is the product modulo `m(x)` (R114). -/
theorem gfClass_gmul (a b : Byte) : gfClass (gmul a b) = gfClass a * gfClass b := by
  rw [gmul, gfClass_gmulLoop, gfClass_zero, zero_add, gfClass, gfClass, bytePoly, bytePoly]

theorem gmul_comm (a b : Byte) : gmul a b = gmul b a :=
  gfClass_injective (by simp only [gfClass_gmul, mul_comm])

theorem gmul_assoc (a b c : Byte) : gmul (gmul a b) c = gmul a (gmul b c) :=
  gfClass_injective (by simp only [gfClass_gmul, mul_assoc])

theorem gmul_xor (a b c : Byte) : gmul a (b ^^^ c) = gmul a b ^^^ gmul a c :=
  gfClass_injective (by simp only [gfClass_gmul, gfClass_xor, mul_add])

@[simp] theorem gmul_one (a : Byte) : gmul a 0x01 = a :=
  gfClass_injective (by rw [gfClass_gmul, gfClass_one, mul_one])

@[simp] theorem gmul_zero (a : Byte) : gmul a 0x00 = 0x00 :=
  gfClass_injective (by rw [gfClass_gmul, gfClass_zero, mul_zero])

@[simp] theorem zero_gmul (b : Byte) : gmul 0x00 b = 0x00 := by rw [gmul_comm, gmul_zero]

@[simp] theorem one_gmul (b : Byte) : gmul 0x01 b = b := by rw [gmul_comm, gmul_one]

theorem exec_gfMul (s : State) : exec .gfMul s = .next { s with gfP := gmul s.gfA s.gfB, busy := false } := rfl

/-! ## Inverses: 0x03 generates the nonzero bytes -/

/-- The power `a ^ k` of the byte product. -/
def gfPow (a : Byte) (k : Nat) : Byte := (fun b => gmul b a)^[k] 0x01

theorem gfClass_gfPow (a : Byte) (k : Nat) : gfClass (gfPow a k) = gfClass a ^ k := by
  induction k with
  | zero => exact gfClass_one
  | succ k ih =>
    rw [pow_succ, ← ih, ← gfClass_gmul]
    exact congrArg gfClass (Function.iterate_succ_apply' _ k _)

theorem gfPow_mul (a : Byte) (j k : Nat) : gfPow a (j * k) = gfPow (gfPow a j) k :=
  gfClass_injective (by simp only [gfClass_gfPow, pow_mul])

theorem gfClass_pow_eq_one_iff (a : Byte) (k : Nat) : gfClass a ^ k = 1 ↔ gfPow a k = 0x01 := by
  rw [← gfClass_gfPow, ← gfClass_one, gfClass_injective.eq_iff]

/-- `0x03 ^ 255 = 0x01`, and no prime of 255 = 3 * 5 * 17 can be left out of the exponent. -/
theorem orderOf_gfClass_three : orderOf (gfClass 0x03) = 255 := by
  have hpow : gfClass 0x03 ^ (15 * 17) = 1 := by
    rw [gfClass_pow_eq_one_iff, gfPow_mul]
    decide
  refine orderOf_eq_of_pow_and_pow_div_prime (by decide) hpow fun p hp hdvd => ?_
  have hmem : p = 3 ∨ p = 5 ∨ p = 17 := by
    have hdvd : p ∣ 3 * 5 * 17 := hdvd
    simpa only [hp.dvd_mul, Nat.prime_dvd_prime_iff_eq hp, Nat.prime_three, Nat.prime_five,
      (by norm_num : Nat.Prime 17), or_assoc] using hdvd
  rw [Ne, gfClass_pow_eq_one_iff]
  rcases hmem with rfl | rfl | rfl
  · rw [show 255 / 3 = 17 * 5 from rfl, gfPow_mul]
    decide
  · rw [show 255 / 5 = 17 * 3 from rfl, gfPow_mul]
    decide
  · decide

theorem gmul_gfPow_three_complement {k : Nat} (hk : k ≤ 255) : gmul (gfPow 0x03 k) (gfPow 0x03 (255 - k)) = 0x01 := by
  refine gfClass_injective ?_
  rw [gfClass_gmul, gfClass_gfPow, gfClass_gfPow, ← pow_add, Nat.add_sub_cancel' hk, gfClass_one,
    ← orderOf_gfClass_three, pow_orderOf_eq_one]

theorem gfPow_three_ne_zero {k : Nat} (hk : k ≤ 255) : gfPow 0x03 k ≠ 0x00 := fun h => by
  have hone := gmul_gfPow_three_complement hk
  rw [h, gmul_comm, gmul_zero] at hone
  exact absurd hone (by decide)

theorem gfPow_three_injOn : Set.InjOn (gfPow 0x03) (Finset.range 255) := by
  intro j hj k hk h
  have hlt : ∀ i ∈ Finset.range 255, i ∈ Set.Iio (orderOf (gfClass 0x03)) := fun i hi => by
    rw [orderOf_gfClass_three]
    exact Finset.mem_range.1 hi
  refine pow_injOn_Iio_orderOf (hlt j hj) (hlt k hk) ?_
  simp only [← gfClass_gfPow, h]

/-- The 255 powers are distinct, so they are all 255 nonzero bytes. -/
theorem exists_gfPow_three_eq {a : Byte} (ha : a ≠ 0x00) : ∃ k < 255, gfPow 0x03 k = a := by
  have hmaps : Set.MapsTo (gfPow 0x03) (Finset.range 255) (Finset.univ.erase (0x00 : Byte)) := fun k hk =>
    Finset.mem_erase.2 ⟨gfPow_three_ne_zero (Finset.mem_range.1 hk).le, Finset.mem_univ _⟩
  have hbytes : Fintype.card Byte = 256 :=
    (Fintype.card_congr BitVec.equivFin.toEquiv).trans (Fintype.card_fin _)
  have hcard : (Finset.univ.erase (0x00 : Byte)).card ≤ (Finset.range 255).card := by
    rw [Finset.card_erase_of_mem (Finset.mem_univ _), Finset.card_univ, hbytes, Finset.card_range]
  obtain ⟨k, hk, hka⟩ := Finset.surjOn_of_injOn_of_card_le _ hmaps gfPow_three_injOn hcard
    (Finset.mem_erase.2 ⟨ha, Finset.mem_univ _⟩)
  exact ⟨k, Finset.mem_range.1 hk, hka⟩

theorem exists_gmul_eq_one {a : Byte} (ha : a ≠ 0x00) : ∃ b, gmul a b = 0x01 := by
  obtain ⟨k, hk, rfl⟩ := exists_gfPow_three_eq ha
  exact ⟨_, gmul_gfPow_three_complement hk.le⟩

end Sys2Proof.Machine

open Sys2Proof Sys2Proof.Machine

/-- Settles O12: the corner values of R113 from the laws of the product, and two computed ones. -/
theorem gfMulWritesProduct : Obligations.GfMulWritesProduct :=
  ⟨by decide, exec_gfMul, zero_gmul, one_gmul, by decide, by decide, gmul_comm⟩

/-- Settles O13: the claim's polynomial of a byte is `bytePoly`, and equal classes differ by a multiple of `m(x)`. -/
theorem gmulIsPolynomialProduct : Obligations.GmulIsPolynomialProduct := by
  intro poly hpoly
  obtain rfl : poly = bytePoly := funext fun b => (hpoly b).trans (bytePoly_eq b).symm
  refine ⟨bytePoly_xor, fun a b => ?_⟩
  have hclass : AdjoinRoot.mk gfModulus (bytePoly a * bytePoly b) = AdjoinRoot.mk gfModulus (bytePoly (gmul a b)) := by
    rw [map_mul]
    exact (gfClass_gmul a b).symm
  obtain ⟨q, hq⟩ := AdjoinRoot.mk_eq_mk.1 hclass
  exact ⟨q, by rw [← gfModulus, mul_comm q, ← hq, add_sub_cancel]⟩

/-- Settles O14: the laws of the ring modulo `m(x)`, and the inverses because 0x03 generates the nonzero bytes. -/
theorem gmulLaws : Obligations.GmulLaws :=
  ⟨gmul_comm, gmul_assoc, gmul_xor, gmul_one, gmul_zero, fun _ => exists_gmul_eq_one, by decide⟩

end

section
/-! PROOFS. The classical ciphers (41_classical.md): a letter moved in its alphabet, the Caesar commands, the keyword and
the running key of Vigenère. -/

namespace Sys2Proof.Machine

/-! ## Letters (R126) -/

/-- The letters as the claims write them. -/
theorem isLetter_eq :
    isLetter = fun b => decide ((0x41 ≤ b.toNat ∧ b.toNat ≤ 0x5A) ∨ (0x61 ≤ b.toNat ∧ b.toNat ≤ 0x7A)) :=
  funext fun _ => (Bool.decide_or _ _).symm

theorem letterShift_of_letter {b : Byte} (h : isLetter b = true) (k : Int) :
    letterShift b k = letterBase b + (((b.toNat : Int) - letterBase b + k) % 26).toNat := by
  simp only [isLetter_eq, decide_eq_true_eq] at h
  unfold letterShift letterBase isUpper
  by_cases hu : 0x41 ≤ b.toNat ∧ b.toNat ≤ 0x5A
  · simp [hu]
  · simp [hu, h.resolve_left hu]

theorem letterShift_of_not_letter {b : Byte} (h : isLetter b = false) (k : Int) : letterShift b k = b.toNat := by
  simp only [isLetter_eq, decide_eq_false_iff_not, not_or] at h
  obtain ⟨hu, hl⟩ := h
  rw [letterShift, if_neg hu, if_neg hl]

theorem letterShift_lt (b : Byte) (k : Int) : letterShift b k < 2 ^ 8 := by
  have := b.isLt
  unfold letterShift
  split
  · omega
  · split <;> omega

/-! ## A byte moved in its alphabet (R127, R133) -/

/-- The byte that a claim's `letterShift` is the number of. -/
def shiftByte (b : Byte) (k : Int) : Byte := BitVec.ofNat 8 (letterShift b k)

@[simp] theorem toNat_shiftByte (b : Byte) (k : Int) : (shiftByte b k).toNat = letterShift b k := by
  rw [shiftByte, BitVec.toNat_ofNat, Nat.mod_eq_of_lt (letterShift_lt b k)]

theorem shiftByte_of_letter {b : Byte} (h : isLetter b = true) (k : Int) :
    shiftByte b k = letterAt b ((b.toNat : Int) - letterBase b + k) := by
  rw [shiftByte, letterShift_of_letter h, letterAt]

@[simp] theorem shiftByte_of_not_letter {b : Byte} (h : isLetter b = false) (k : Int) : shiftByte b k = b := by
  rw [shiftByte, letterShift_of_not_letter h, BitVec.ofNat_toNat, BitVec.setWidth_eq]

/-- A move keeps the case. -/
@[simp] theorem isUpper_shiftByte (b : Byte) (k : Int) : isUpper (shiftByte b k) = isUpper b := by
  simp only [isUpper, toNat_shiftByte, letterShift, decide_eq_decide]
  split
  · omega
  · split <;> omega

@[simp] theorem isLetter_shiftByte (b : Byte) (k : Int) : isLetter (shiftByte b k) = isLetter b := by
  simp only [isLetter_eq, toNat_shiftByte, letterShift, decide_eq_decide]
  split
  · omega
  · split <;> omega

/-- Two moves are one move by the sum. -/
theorem shiftByte_shiftByte (b : Byte) (j k : Int) : shiftByte (shiftByte b j) k = shiftByte b (j + k) := by
  cases h : isLetter b with
  | false => simp [h]
  | true =>
    have hbase : letterBase (shiftByte b j) = letterBase b := by simp [letterBase]
    apply BitVec.eq_of_toNat_eq
    rw [toNat_shiftByte, toNat_shiftByte, letterShift_of_letter (by simpa using h), hbase, toNat_shiftByte,
      letterShift_of_letter h, letterShift_of_letter h]
    omega

@[simp] theorem shiftByte_zero (b : Byte) : shiftByte b 0 = b := by
  apply BitVec.eq_of_toNat_eq
  rw [toNat_shiftByte, letterShift]
  split
  · omega
  · split <;> omega

theorem letterForward_eq {b : Byte} (h : isLetter b = true) (k : Nat) : letterForward b k = shiftByte b k :=
  (shiftByte_of_letter h k).symm

theorem letterBackward_eq {b : Byte} (h : isLetter b = true) (k : Nat) : letterBackward b k = shiftByte b (-(k : Int)) :=
  (shiftByte_of_letter h (-(k : Int))).symm

/-- The letter moved forward is a letter, and moving it back gives the letter it was. -/
theorem letterBackward_letterForward {b : Byte} (h : isLetter b = true) (k : Nat) :
    isLetter (letterForward b k) = true ∧ letterBackward (letterForward b k) k = b := by
  have hl : isLetter (shiftByte b k) = true := by rw [isLetter_shiftByte, h]
  rw [letterForward_eq h, letterBackward_eq hl, shiftByte_shiftByte, add_neg_cancel, shiftByte_zero]
  exact ⟨hl, rfl⟩

/-! ## The Caesar commands (R129 to R131) -/

theorem caesarF_eq (s b : Byte) : caesarF s b = shiftByte b s.toNat := by
  cases h : isLetter b with
  | false => simp [caesarF, h]
  | true => simp [caesarF, h, letterForward_eq]

theorem caesarB_eq (s b : Byte) : caesarB s b = shiftByte b (-(s.toNat : Int)) := by
  cases h : isLetter b with
  | false => simp [caesarB, h]
  | true => simp [caesarB, h, letterBackward_eq]

theorem caesarB_caesarF (s b : Byte) : caesarB s (caesarF s b) = b := by
  rw [caesarF_eq, caesarB_eq, shiftByte_shiftByte, add_neg_cancel, shiftByte_zero]

theorem mapInput_of_le {s : State} (h : s.inlen.toNat ≤ 4096) (f : Byte → Byte) :
    mapInput f s = .next (complete (putOutput ((inputBytes s).map f) s)) :=
  if_neg (Nat.not_lt.2 h)

theorem mapInput_of_gt {s : State} (h : 4096 < s.inlen.toNat) (f : Byte → Byte) :
    mapInput f s = .next (failed 0x06 s) :=
  if_pos h

/-! ## Output as long as the input (10_state.md R33, R52) -/

theorem putOutput_eq {s : State} {bs : List Byte} (hl : bs.length = s.inlen.toNat) :
    putOutput bs s = { putArr .obuf bs s with outlen := s.inlen } := by
  rw [putOutput, hl, BitVec.ofNat_toNat, BitVec.setWidth_eq]

theorem putOutput_outlen_eq {s : State} {bs : List Byte} (hl : bs.length = s.inlen.toNat) :
    (putOutput bs s).outlen = s.inlen := by
  rw [putOutput_eq hl]

/-- The output of a command reads back whole. -/
theorem readBytes_putOutput {s : State} {bs : List Byte} (hl : bs.length = s.inlen.toNat) :
    readBytes (putOutput bs s).mem 0x2000 (putOutput bs s).outlen.toNat = bs := by
  rw [putOutput_outlen_eq hl, ← hl]
  exact readBytes_writeBytes_same s.mem 0x2000 bs

/-- OBUF after an output whose bytes are the input bytes, each moved in its alphabet; every other byte is kept. -/
theorem readByte_putOutput_shifted {s : State} {bs : List Byte} {k : Nat → Int} (hl : bs.length = s.inlen.toNat)
    (hb : ∀ i, i < s.inlen.toNat → bs.getD i 0 = shiftByte (readByte s.mem (0x1000 + i)) (k i)) :
    (∀ i, i < s.inlen.toNat → (readByte (putOutput bs s).mem (0x2000 + i)).toNat =
      letterShift (readByte s.mem (0x1000 + i)) (k i)) ∧
    ∀ x, x < 0x2000 ∨ 0x2000 + s.inlen.toNat ≤ x → readByte (putOutput bs s).mem x = readByte s.mem x := by
  obtain ⟨hin, hout⟩ := stored_writeBytes s.mem 0x2000 bs
  rw [hl] at hin hout
  exact ⟨fun i hi => by rw [← toNat_shiftByte, ← hb i hi, ← hin i hi]; rfl, hout⟩

theorem mapInput_shifts {f : Byte → Byte} {k : Int} (hf : ∀ b, f b = shiftByte b k) {s : State}
    (h : s.inlen.toNat ≤ 4096) :
    ∃ t, mapInput f s = .next t ∧ t = { s with mem := t.mem, outlen := s.inlen, busy := false } ∧
      (∀ i, i < s.inlen.toNat → (readByte t.mem (0x2000 + i)).toNat = letterShift (readByte s.mem (0x1000 + i)) k) ∧
      ∀ x, x < 0x2000 ∨ 0x2000 + s.inlen.toNat ≤ x → readByte t.mem x = readByte s.mem x := by
  have hl : ((inputBytes s).map f).length = s.inlen.toNat := by simp
  refine ⟨_, mapInput_of_le h f, ?_, readByte_putOutput_shifted hl fun i hi => ?_⟩
  · rw [putOutput_eq hl]
    rfl
  · rw [← hf, ← getD_readBytes hi]
    simp [inputBytes, arrBytes, hi, ByteArr.base]

/-! ## The keyword (R132, R134) -/

theorem exec_vigKey (s : State) : exec .vigKey s =
    if 32 < s.vklen.toNat then .next (failed 0x06 s)
    else if (normKeyword (keywordBytes s)).length = 0 then .next (failed 0x03 s)
    else .next (complete (putKeyword (normKeyword (keywordBytes s)) s)) := rfl

theorem normKeyword_eq (k : List Byte) :
    normKeyword k = (k.filter fun b =>
      decide ((0x41 ≤ b.toNat ∧ b.toNat ≤ 0x5A) ∨ (0x61 ≤ b.toNat ∧ b.toNat ≤ 0x7A))).map (fun b => b &&& 0xDF) := by
  rw [normKeyword, isLetter_eq]

/-! ## The running key (R135 to R137) -/

/-- The index after a text is the start index advanced once per letter. -/
theorem vigLoop_index (f : Byte → Byte → Byte) {key : List Byte} {j : Nat} (hj : j < key.length) (bs : List Byte) :
    (vigLoop f key j bs).2 = (j + bs.countP isLetter) % key.length := by
  induction bs generalizing j with
  | nil => simp [vigLoop, Nat.mod_eq_of_lt hj]
  | cons b bs ih =>
    cases h : isLetter b with
    | false => simp [vigLoop, h, ih hj]
    | true =>
      have hnext := ih (Nat.mod_lt (j + 1) (Nat.zero_lt_of_lt hj))
      simp [vigLoop, h, hnext, Nat.add_right_comm j 1, Nat.add_assoc]

/-- Byte `i` of the output is the input byte moved by the key letter at the start index advanced once per letter
before it. -/
theorem vigLoop_output {f : Byte → Byte → Byte} {d : Byte → Int}
    (hf : ∀ b k, isLetter b = true → isUpper k = true → f b k = shiftByte b (d k)) {key : List Byte}
    (hkey : ∀ k ∈ key, isUpper k = true) {j : Nat} (hj : j < key.length) {bs : List Byte} {i : Nat}
    (hi : i < bs.length) :
    (vigLoop f key j bs).1.getD i 0 =
      shiftByte (bs.getD i 0) (d (key.getD ((j + (bs.take i).countP isLetter) % key.length) 0)) := by
  induction bs generalizing j i with
  | nil => simp at hi
  | cons b bs ih =>
    have hnext : (j + 1) % key.length < key.length := Nat.mod_lt _ (Nat.zero_lt_of_lt hj)
    cases i with
    | zero =>
      cases h : isLetter b with
      | false => simp [vigLoop, h]
      | true =>
        have hup : isUpper (key.getD j 0) = true := by
          rw [List.getD_eq_getElem _ _ hj]
          exact hkey _ (List.getElem_mem hj)
        simpa [vigLoop, h, Nat.mod_eq_of_lt hj] using hf b _ h hup
    | succ i =>
      have hi : i < bs.length := Nat.lt_of_succ_lt_succ hi
      cases h : isLetter b with
      | false => simpa [vigLoop, h] using ih hj hi
      | true => simpa [vigLoop, h, Nat.add_right_comm j 1, Nat.add_assoc] using ih hnext hi

/-- A loop whose letter function undoes that of another gives the text back, and ends at the same index. -/
theorem vigLoop_vigLoop {f g : Byte → Byte → Byte}
    (hfg : ∀ b k, isLetter b = true → isLetter (f b k) = true ∧ g (f b k) k = b) (key : List Byte) (j : Nat)
    (bs : List Byte) :
    vigLoop g key j (vigLoop f key j bs).1 = (bs, (vigLoop f key j bs).2) := by
  induction bs generalizing j with
  | nil => rfl
  | cons b bs ih =>
    cases h : isLetter b with
    | false => simp [vigLoop, h, ih]
    | true => simp [vigLoop, h, hfg b _ h, ih]

theorem toNat_sub_of_upper {k : Byte} (h : isUpper k = true) : ((k.toNat - 0x41 : Nat) : Int) = k.toNat - 0x41 :=
  Nat.cast_sub (of_decide_eq_true h).1

theorem vigF_eq (b k : Byte) (hb : isLetter b = true) (hk : isUpper k = true) :
    vigF b k = shiftByte b (k.toNat - 0x41 : Int) := by
  rw [vigF, letterForward_eq hb, toNat_sub_of_upper hk]

theorem vigB_eq (b k : Byte) (hb : isLetter b = true) (hk : isUpper k = true) :
    vigB b k = shiftByte b (0x41 - k.toNat : Int) := by
  rw [vigB, letterBackward_eq hb, toNat_sub_of_upper hk, neg_sub]

theorem vigRun_of_unkeyed {s : State} (hv : s.vkvalid = false) (f : Byte → Byte → Byte) :
    vigRun f s = .next (failed 0x03 s) :=
  if_pos hv

theorem vigRun_of_gt {s : State} (hv : s.vkvalid = true) (h : 4096 < s.inlen.toNat) (f : Byte → Byte → Byte) :
    vigRun f s = .next (failed 0x06 s) :=
  (if_neg (by simp [hv])).trans (if_pos h)

/-- The output of a Vigenère command and its final index. -/
abbrev vigOut (f : Byte → Byte → Byte) (s : State) : List Byte × Nat :=
  vigLoop f (keywordBytes s) s.vkidx.toNat (inputBytes s)

theorem vigRun_of_le {s : State} (hv : s.vkvalid = true) (h : s.inlen.toNat ≤ 4096) (f : Byte → Byte → Byte) :
    vigRun f s = .next (complete { putOutput (vigOut f s).1 s with vkidx := BitVec.ofNat 5 (vigOut f s).2 }) :=
  (if_neg (by simp [hv])).trans (if_neg (Nat.not_lt.2 h))

theorem take_readBytes {m : List Host.Cell} {a n i : Nat} (h : i ≤ n) : (readBytes m a n).take i = readBytes m a i := by
  rw [readBytes, ← List.map_take, List.take_range, Nat.min_eq_left h, readBytes]

/-- The claims' key index is the loop's: the keyword length and the letters of the input read so far. -/
theorem keyIndexAt_eq {s : State} {i : Nat} (h : i ≤ s.inlen.toNat) :
    (s.vkidx.toNat + ((inputBytes s).take i).countP isLetter) % (keywordBytes s).length = keyIndexAt s i := by
  rw [length_keywordBytes, inputBytes, arrBytes, take_readBytes h, isLetter_eq]
  rfl

theorem keyIndexAt_lt {s : State} (hk : KeywordInv s) (hv : s.vkvalid = true) (i : Nat) :
    keyIndexAt s i < s.vklen.toNat :=
  Nat.mod_lt _ (hk.length_pos hv)

theorem vigRun_shifts {f : Byte → Byte → Byte} {d : Byte → Int}
    (hf : ∀ b k, isLetter b = true → isUpper k = true → f b k = shiftByte b (d k)) {s : State} (hk : KeywordInv s)
    (hv : s.vkvalid = true) (h : s.inlen.toNat ≤ 4096) :
    ∃ t, vigRun f s = .next t ∧ t = { s with mem := t.mem, outlen := s.inlen, vkidx := t.vkidx, busy := false } ∧
      t.vkidx.toNat = keyIndexAt s s.inlen.toNat ∧
      (∀ i, i < s.inlen.toNat → (readByte t.mem (0x2000 + i)).toNat =
        letterShift (readByte s.mem (0x1000 + i)) (d (readByte s.mem (0x0060 + keyIndexAt s i)))) ∧
      ∀ x, x < 0x2000 ∨ 0x2000 + s.inlen.toNat ≤ x → readByte t.mem x = readByte s.mem x := by
  have hl : (vigOut f s).1.length = s.inlen.toNat := by simp
  have hj : s.vkidx.toNat < (keywordBytes s).length := by simpa using hk.index_lt hv
  have hlt : ∀ i, keyIndexAt s i < s.vklen.toNat := keyIndexAt_lt hk hv
  have hle : s.vklen.toNat ≤ 32 := hk.length_le hv
  refine ⟨_, vigRun_of_le hv h f, ?_, ?_, readByte_putOutput_shifted hl fun i hi => ?_⟩
  · rw [putOutput_eq hl]
    rfl
  · have hidx : (vigOut f s).2 = keyIndexAt s s.inlen.toNat := by
      rw [vigLoop_index f hj, ← keyIndexAt_eq le_rfl, List.take_of_length_le (length_inputBytes s).le]
    rw [complete_vkidx, hidx, BitVec.toNat_ofNat, Nat.mod_eq_of_lt ((hlt _).trans_le hle)]
  · rw [vigLoop_output hf (hk.upper hv) hj (by simpa using hi), keyIndexAt_eq hi.le, inputBytes, keywordBytes, arrBytes,
      arrBytes, getD_readBytes hi, getD_readBytes (hlt i)]
    rfl

end Sys2Proof.Machine

open Sys2Proof Sys2Proof.Machine

/-- Settles O15: both commands are one byte map over the input, a move by SHIFT or by its negative. -/
theorem caesarShiftsLetters : Obligations.CaesarShiftsLetters :=
  ⟨by decide, by decide, fun _ =>
    ⟨fun h => ⟨mapInput_shifts (caesarF_eq _) h, mapInput_shifts (caesarB_eq _) h⟩,
      fun h => ⟨mapInput_of_gt h _, mapInput_of_gt h _⟩⟩⟩

/-- Settles O16: the two byte maps undo each other. -/
theorem caesarRoundTrip : Obligations.CaesarRoundTrip := by
  intro s hs
  have hl : ((inputBytes s).map (caesarF s.shift)).length = s.inlen.toNat := by simp
  refine ⟨_, mapInput_of_le hs _, fun u hshift hlen htext => ?_⟩
  have hlen : u.inlen = s.inlen := hlen.trans (putOutput_outlen_eq hl)
  have htext : inputBytes u = (inputBytes s).map (caesarF s.shift) := htext.trans (readBytes_putOutput hl)
  have hback : (inputBytes u).map (caesarB u.shift) = inputBytes s := by
    simp [htext, hshift, Function.comp_def, caesarB_caesarF]
  refine ⟨_, mapInput_of_le (hlen ▸ hs) _, (putOutput_outlen_eq (by simp)).trans hlen, ?_⟩
  exact (readBytes_putOutput (by simp)).trans hback

/-- Settles O17: the keyword of the claim is `normKeyword`, and VIG_KEY stores it over all of VKEY. -/
theorem vigKeyNormalises : Obligations.VigKeyNormalises := by
  refine ⟨by decide, fun s k hk => ?_⟩
  obtain rfl : k = normKeyword (keywordBytes s) := hk.trans (normKeyword_eq _).symm
  have hle := length_normKeyword_le (keywordBytes s)
  rw [length_keywordBytes] at hle
  rw [exec_vigKey]
  refine ⟨fun h => if_pos h, fun h hnil => ?_, fun h hne => ?_⟩
  · rw [if_neg (Nat.not_lt.2 h), if_pos (List.length_eq_zero_iff.2 hnil)]
  · rw [if_neg (Nat.not_lt.2 h), if_neg (mt List.length_eq_zero_iff.1 hne)]
    refine ⟨_, rfl, rfl, ?_, stored_writeBytes ..⟩
    rw [complete_vklen, putKeyword_vklen, BitVec.toNat_ofNat, Nat.mod_eq_of_lt (by omega)]

/-- Settles O18: both commands are the loop of R135, whose index and bytes are those the claim counts. -/
theorem vigenereRunningKey : Obligations.VigenereRunningKey :=
  ⟨by decide, by decide, fun _ hv => ⟨vigRun_of_unkeyed hv _, vigRun_of_unkeyed hv _⟩,
    fun _ hv h => ⟨vigRun_of_gt hv h _, vigRun_of_gt hv h _⟩,
    fun _ hk hv h => ⟨vigRun_shifts vigF_eq hk hv h, vigRun_shifts vigB_eq hk hv h⟩⟩

/-- Settles O19: `vigB` undoes `vigF` letter by letter, so the second loop meets the letters of the first at the
same indices. -/
theorem vigenereRoundTrip : Obligations.VigenereRoundTrip := by
  intro s _ hv hs
  have hl : (vigOut vigF s).1.length = s.inlen.toNat := by simp
  refine ⟨_, vigRun_of_le hv hs _, fun u huv hklen hkidx hkey hlen htext => ?_⟩
  have hlen : u.inlen = s.inlen := hlen.trans (putOutput_outlen_eq hl)
  have htext : inputBytes u = (vigOut vigF s).1 := htext.trans (readBytes_putOutput hl)
  have hkey : keywordBytes u = keywordBytes s := hkey
  have hback : vigOut vigB u = (inputBytes s, (vigOut vigF s).2) := by
    rw [vigOut, hkey, hkidx, htext]
    exact vigLoop_vigLoop (fun b k hb => letterBackward_letterForward hb _) _ _ _
  refine ⟨_, vigRun_of_le huv (hlen ▸ hs) _, (putOutput_outlen_eq (by simp)).trans hlen, ?_, ?_⟩
  · rw [complete_vkidx, complete_vkidx, hback]
  · exact (readBytes_putOutput (by simp)).trans (congrArg Prod.fst hback)

end

section
/-! PROOFS. The Base64 encoder and decoder (42_base64.md R146 to R153): the number a bit string stands for and its
slices, the alphabet, then the two commands and their round trip. -/

namespace Sys2Proof.Machine

/-! ## The number of a bit string (R147) -/

theorem bitsValue_concat (bits : List Bool) (b : Bool) : bitsValue (bits ++ [b]) = 2 * bitsValue bits + b.toNat := by
  simp [bitsValue]

theorem bitsValue_append (xs ys : List Bool) : bitsValue (xs ++ ys) = 2 ^ ys.length * bitsValue xs + bitsValue ys := by
  induction ys using List.reverseRecOn with
  | nil => simp [bitsValue]
  | append_singleton ys y ih =>
    rw [← List.append_assoc, bitsValue_concat, bitsValue_concat, ih, List.length_append, List.length_singleton]
    ring

theorem bitsValue_cons (b : Bool) (bits : List Bool) :
    bitsValue (b :: bits) = 2 ^ bits.length * b.toNat + bitsValue bits := by
  rw [← List.singleton_append, bitsValue_append]
  simp [bitsValue]

theorem bitsValue_lt (bits : List Bool) : bitsValue bits < 2 ^ bits.length := by
  induction bits using List.reverseRecOn with
  | nil => simp [bitsValue]
  | append_singleton bits b ih =>
    have := b.toNat_lt
    rw [bitsValue_concat, List.length_append, List.length_singleton, pow_succ]
    omega

/-- The bits `a .. a + k - 1` of a string are digits of its number. -/
theorem bitsValue_slice {bits : List Bool} {a k : Nat} (h : a + k ≤ bits.length) :
    bitsValue ((bits.drop a).take k) = bitsValue bits / 2 ^ (bits.length - (a + k)) % 2 ^ k := by
  have hlow : bitsValue (bits.drop (a + k)) < 2 ^ (bits.length - (a + k)) := by
    simpa using bitsValue_lt (bits.drop (a + k))
  have hmid : bitsValue ((bits.drop a).take k) < 2 ^ k := by
    simpa [Nat.min_eq_left (by omega : k ≤ bits.length - a)] using bitsValue_lt ((bits.drop a).take k)
  have hhigh : bitsValue (bits.take (a + k)) = 2 ^ k * bitsValue (bits.take a) + bitsValue ((bits.drop a).take k) := by
    rw [List.take_add, bitsValue_append, List.length_take_of_le (by rw [List.length_drop]; omega)]
  have hall : bitsValue bits =
      2 ^ (bits.length - (a + k)) * bitsValue (bits.take (a + k)) + bitsValue (bits.drop (a + k)) := by
    rw [← List.length_drop, ← bitsValue_append, List.take_append_drop]
  rw [hall, Nat.mul_add_div (by positivity), Nat.div_eq_of_lt hlow, Nat.add_zero, hhigh, Nat.mul_add_mod,
    Nat.mod_eq_of_lt hmid]

theorem bitsValue_bitsMsb (k v : Nat) : bitsValue (bitsMsb k v) = v % 2 ^ k := by
  induction k with
  | zero => simp [bitsMsb, bitsValue, Nat.mod_one]
  | succ k ih =>
    rw [bitsMsb, bitsValue_cons, ih, length_bitsMsb, Nat.mod_pow_succ, Nat.toNat_testBit, Nat.add_comm]

theorem bitsMsb_congr {k v w : Nat} (h : ∀ i < k, v.testBit i = w.testBit i) : bitsMsb k v = bitsMsb k w := by
  induction k with
  | zero => rfl
  | succ k ih => rw [bitsMsb, bitsMsb, h k k.lt_succ_self, ih fun i hi => h i (by omega)]

/-- The bits of a string's number are the string. -/
theorem bitsMsb_bitsValue (bits : List Bool) : bitsMsb bits.length (bitsValue bits) = bits := by
  induction bits with
  | nil => rfl
  | cons b bits ih =>
    have htest : ∀ i, (bitsValue (b :: bits)).testBit i =
        if i < bits.length then (bitsValue bits).testBit i else b.toNat.testBit (i - bits.length) := by
      intro i
      rw [bitsValue_cons, Nat.testBit_two_pow_mul_add _ (bitsValue_lt bits)]
    have hlow : bitsMsb bits.length (bitsValue (b :: bits)) = bitsMsb bits.length (bitsValue bits) :=
      bitsMsb_congr fun i hi => by rw [htest, if_pos hi]
    rw [List.length_cons, bitsMsb, htest, if_neg (lt_irrefl _), hlow, ih, Nat.sub_self]
    cases b <;> rfl

/-! ## Strings of equally many bits each -/

section Chunks

variable {α : Type} {f : α → List Bool} {k : Nat} (hf : ∀ a, (f a).length = k)
include hf

theorem drop_flatMap_const (l : List α) (n : Nat) : (l.flatMap f).drop (k * n) = (l.drop n).flatMap f := by
  induction n generalizing l with
  | zero => simp
  | succ n ih =>
    cases l with
    | nil => simp
    | cons a l =>
      rw [List.flatMap_cons, Nat.mul_succ, Nat.add_comm, ← List.drop_drop, List.drop_left' (hf a), ih,
        List.drop_succ_cons]

theorem take_flatMap_const (l : List α) (n : Nat) : (l.flatMap f).take (k * n) = (l.take n).flatMap f := by
  induction n generalizing l with
  | zero => simp
  | succ n ih =>
    cases l with
    | nil => simp
    | cons a l =>
      rw [List.flatMap_cons, Nat.mul_succ, Nat.add_comm, ← hf a, List.take_length_add_append, hf a, ih,
        List.take_succ_cons, List.flatMap_cons]

end Chunks

/-- Numbers below `2 ^ k` written one after another are the digits of one number in base `2 ^ k`. -/
theorem bitsValue_flatMap_bitsMsb {α : Type} {k : Nat} {f : α → Nat} {l : List α} (hf : ∀ a ∈ l, f a < 2 ^ k) :
    bitsValue (l.flatMap fun a => bitsMsb k (f a)) = l.foldl (fun v a => 2 ^ k * v + f a) 0 := by
  induction l using List.reverseRecOn with
  | nil => rfl
  | append_singleton l a ih =>
    rw [List.flatMap_append, List.flatMap_singleton, bitsValue_append, length_bitsMsb, bitsValue_bitsMsb,
      Nat.mod_eq_of_lt (hf a (by simp)), ih fun b hb => hf b (by simp [hb]), List.foldl_append]
    rfl

theorem getElem_bitGroups {k n g : Nat} {bits : List Bool} (h : g < (bitGroups k n bits).length) :
    (bitGroups k n bits)[g] = (bits.drop (k * g)).take k := by
  induction n generalizing g bits with
  | zero => simp at h
  | succ n ih =>
    cases g with
    | zero => simp [bitGroups]
    | succ g =>
      simp only [bitGroups, List.getElem_cons_succ]
      rw [ih, List.drop_drop, Nat.mul_succ, Nat.add_comm]

theorem length_of_mem_bitGroups {k n : Nat} {bits g : List Bool} (h : k * n ≤ bits.length)
    (hg : g ∈ bitGroups k n bits) : g.length = k := by
  obtain ⟨i, hi, rfl⟩ := List.getElem_of_mem hg
  have hik : k * (i + 1) ≤ k * n := Nat.mul_le_mul_left k (by simpa using hi)
  rw [Nat.mul_succ] at hik
  rw [getElem_bitGroups, List.length_take_of_le (by rw [List.length_drop]; omega)]

/-- The groups of a string of whole groups are the string. -/
theorem flatten_bitGroups {k n : Nat} {bits : List Bool} (h : bits.length = k * n) :
    (bitGroups k n bits).flatten = bits := by
  induction n generalizing bits with
  | zero => exact (List.length_eq_zero_iff.1 h).symm
  | succ n ih =>
    rw [bitGroups, List.flatten_cons, ih (by rw [List.length_drop, h, Nat.mul_succ, Nat.add_sub_cancel]),
      List.take_append_drop]

/-! ## The bits of a byte string (R147) -/

/-- The bitstream of a byte string, eight bits a byte. -/
def byteBits (bs : List Byte) : List Bool := bs.flatMap fun b => bitsMsb 8 b.toNat

theorem byteBits_cons (b : Byte) (bs : List Byte) : byteBits (b :: bs) = bitsMsb 8 b.toNat ++ byteBits bs := rfl

theorem length_byteBits (bs : List Byte) : (byteBits bs).length = 8 * bs.length :=
  length_flatMap_const _ 8 _ fun _ => length_bitsMsb ..

theorem drop_byteBits (bs : List Byte) (n : Nat) : (byteBits bs).drop (8 * n) = byteBits (bs.drop n) :=
  drop_flatMap_const (fun _ => length_bitsMsb ..) bs n

theorem take_byteBits (bs : List Byte) (n : Nat) : (byteBits bs).take (8 * n) = byteBits (bs.take n) :=
  take_flatMap_const (fun _ => length_bitsMsb ..) bs n

theorem byteBits_append_zeros (bs : List Byte) (n : Nat) :
    byteBits (bs ++ List.replicate n 0x00) = byteBits bs ++ List.replicate (8 * n) false := by
  have hzeros : byteBits (List.replicate n 0x00) = List.replicate (8 * n) false := by
    induction n with
    | zero => rfl
    | succ n ih => rw [List.replicate_succ, byteBits_cons, ih, Nat.mul_succ, Nat.add_comm, List.replicate_add]; rfl
  rw [byteBits, List.flatMap_append, ← byteBits, ← byteBits, hzeros]

/-- A byte string's bits stand for its number in base 256. -/
theorem bitsValue_byteBits (bs : List Byte) : bitsValue (byteBits bs) = bs.foldl (fun v b => 256 * v + b.toNat) 0 :=
  bitsValue_flatMap_bitsMsb fun b _ => b.isLt

/-- The groups of a byte string's bits are the bytes. -/
theorem bitGroups_byteBits (bs : List Byte) :
    (bitGroups 8 bs.length (byteBits bs)).map (fun g => BitVec.ofNat 8 (bitsValue g)) = bs := by
  induction bs with
  | nil => rfl
  | cons b bs ih =>
    have hb : BitVec.ofNat 8 (bitsValue (bitsMsb 8 b.toNat)) = b := by
      rw [bitsValue_bitsMsb, Nat.mod_eq_of_lt b.isLt, BitVec.ofNat_toNat, BitVec.setWidth_eq]
    rw [byteBits_cons, List.length_cons, bitGroups, List.map_cons, List.take_left' (length_bitsMsb ..),
      List.drop_left' (length_bitsMsb ..), hb, ih]

/-! ## The alphabet (R146, R149) -/

/-- The claims' alphabet is `ALPHA[0] .. ALPHA[63]`. -/
theorem alphabet_eq : alphabet = (List.range 64).map fun v => (alpha v).toNat := by decide

theorem symbolValue_alpha {v : Nat} (h : v < 64) : symbolValue (alpha v) = some v := by
  revert v; decide

theorem alpha_of_symbolValue {c : Byte} {v : Nat} (h : symbolValue c = some v) : v < 64 ∧ alpha v = c := by
  have hall : ∀ c : Byte, ∀ v ∈ symbolValue c, v < 64 ∧ alpha v = c := by decide
  exact hall c v h

theorem symbolValue_padByte : symbolValue padByte = none := rfl

theorem alpha_ne_padByte {v : Nat} (h : v < 64) : alpha v ≠ padByte := fun hpad => by
  have := symbolValue_alpha h
  rw [hpad, symbolValue_padByte] at this
  cases this

theorem alphabet_getD {v : Nat} (h : v < 64) : alphabet.getD v 0 = (alpha v).toNat := by
  simp [alphabet_eq, h]

theorem alphabet_nodup : alphabet.Nodup := by
  rw [alphabet_eq]
  refine List.Nodup.map_on (fun v hv w hw hvw => ?_) List.nodup_range
  have hsome : some v = some w := by
    rw [← symbolValue_alpha (List.mem_range.1 hv), BitVec.eq_of_toNat_eq hvw, symbolValue_alpha (List.mem_range.1 hw)]
  exact Option.some.inj hsome

theorem mem_alphabet_iff {c : Byte} : c.toNat ∈ alphabet ↔ ∃ v, symbolValue c = some v := by
  rw [alphabet_eq, List.mem_map]
  constructor
  · rintro ⟨v, hv, hc⟩
    rw [← BitVec.eq_of_toNat_eq hc]
    exact ⟨v, symbolValue_alpha (List.mem_range.1 hv)⟩
  · rintro ⟨v, hv⟩
    obtain ⟨hlt, rfl⟩ := alpha_of_symbolValue hv
    exact ⟨v, List.mem_range.2 hlt, rfl⟩

/-- The value of a symbol is its place in the claims' alphabet. -/
theorem symbolValue_of_mem_alphabet {c : Byte} (h : c.toNat ∈ alphabet) :
    symbolValue c = some (alphabet.idxOf c.toNat) := by
  obtain ⟨v, hv⟩ := mem_alphabet_iff.1 h
  obtain ⟨hlt, rfl⟩ := alpha_of_symbolValue hv
  have hlen : v < alphabet.length := by simpa [alphabet_eq] using hlt
  have hidx := alphabet_nodup.idxOf_getElem v hlen
  rw [← List.getD_eq_getElem _ 0 hlen, alphabet_getD hlt] at hidx
  rw [hv, hidx]

theorem validSymbol_iff {c : Byte} : validSymbol c = true ↔ c = padByte ∨ c.toNat ∈ alphabet := by
  rw [validSymbol, Bool.or_eq_true, decide_eq_true_eq, Option.isSome_iff_exists, mem_alphabet_iff]

/-! ## The output of a command -/

theorem toNat_outlen_putOutput {bs : List Byte} (hl : bs.length ≤ 4096) (s : State) :
    (putOutput bs s).outlen.toNat = bs.length := by
  rw [putOutput_outlen, BitVec.toNat_ofNat, Nat.mod_eq_of_lt (by omega)]

/-- What a command that only writes its output does, as the claims say it: byte `i` of the output is `v i`. -/
theorem completed_putOutput {s : State} {bs : List Byte} {v : Nat → Nat} (hl : bs.length ≤ 4096)
    (hv : ∀ i, i < bs.length → (bs.getD i 0).toNat = v i) :
    ∃ t, completed (putOutput bs s) = .next t ∧ t = { s with mem := t.mem, outlen := t.outlen, busy := false } ∧
      t.outlen.toNat = bs.length ∧ (∀ i, i < t.outlen.toNat → (readByte t.mem (0x2000 + i)).toNat = v i) ∧
      ∀ x, x < 0x2000 ∨ 0x2000 + t.outlen.toNat ≤ x → readByte t.mem x = readByte s.mem x := by
  have hlen := toNat_outlen_putOutput hl s
  obtain ⟨hin, hout⟩ := stored_writeBytes s.mem 0x2000 bs
  rw [← hlen] at hin hout
  exact ⟨_, rfl, rfl, hlen, fun i hi => (congrArg BitVec.toNat (hin i hi)).trans (hv i (hlen ▸ hi)), hout⟩

/-! ## Encoding (R148) -/

/-- Byte `i` of a string as a number, 0 beyond it. -/
abbrev byteNat (bs : List Byte) (i : Nat) : Nat := (bs.getD i 0).toNat

/-- The 24-bit number of three bytes. -/
def tripleNat (bs : List Byte) (k : Nat) : Nat :=
  byteNat bs (3 * k) * 65536 + byteNat bs (3 * k + 1) * 256 + byteNat bs (3 * k + 2)

/-- The string with 0x00 bytes up to a multiple of three. -/
def padTriples (bs : List Byte) : List Byte := bs ++ List.replicate ((3 - bs.length % 3) % 3) 0x00

theorem length_padTriples (bs : List Byte) : (padTriples bs).length = 3 * ((bs.length + 2) / 3) := by
  rw [padTriples, List.length_append, List.length_replicate]
  omega

theorem getD_padTriples (bs : List Byte) (i : Nat) : (padTriples bs).getD i 0 = bs.getD i 0 := by
  by_cases hi : i < bs.length
  · rw [padTriples, List.getD_append _ _ _ _ hi]
  · rw [padTriples, List.getD_append_right _ _ _ _ (by omega), List.getD_eq_default bs _ (by omega)]
    exact List.getElem?_getD_replicate_default_eq ..

/-- The zero bits of R148 are the first bits of the 0x00 bytes. -/
theorem encodeBits_append_zeros (bs : List Byte) :
    ∃ n, encodeBits bs ++ List.replicate n false = byteBits (padTriples bs) := by
  refine ⟨8 * ((3 - bs.length % 3) % 3) - (6 - 8 * bs.length % 6) % 6, ?_⟩
  rw [padTriples, byteBits_append_zeros, encodeBits, ← byteBits, List.append_assoc, ← List.replicate_add]
  congr 2
  omega

/-- The bits of the three bytes from `3 * k` on. -/
def tripleBits (bs : List Byte) (k : Nat) : List Bool := byteBits (((padTriples bs).drop (3 * k)).take 3)

theorem length_tripleBits {bs : List Byte} {k : Nat} (hk : 3 * k < bs.length) : (tripleBits bs k).length = 24 := by
  rw [tripleBits, length_byteBits, List.length_take, List.length_drop, length_padTriples]
  omega

theorem take_three {l : List Byte} (h : 3 ≤ l.length) : l.take 3 = [l.getD 0 0, l.getD 1 0, l.getD 2 0] := by
  match l, h with
  | _ :: _ :: _ :: _, _ => rfl

theorem bitsValue_tripleBits {bs : List Byte} {k : Nat} (hk : 3 * k < bs.length) :
    bitsValue (tripleBits bs k) = tripleNat bs k := by
  have hlen : 3 ≤ ((padTriples bs).drop (3 * k)).length := by rw [List.length_drop, length_padTriples]; omega
  have hget : ∀ i, ((padTriples bs).drop (3 * k)).getD i 0 = bs.getD (3 * k + i) 0 := fun i => by
    rw [← getD_padTriples bs, List.getD_eq_getElem?_getD, List.getElem?_drop, List.getD_eq_getElem?_getD]
  rw [tripleBits, take_three hlen, bitsValue_byteBits, hget, hget, hget, tripleNat]
  simp only [List.foldl_cons, List.foldl_nil, byteNat, Nat.add_zero]
  omega

/-- A six-bit group of R148 lies inside the bits of three bytes. -/
theorem group_eq_tripleBits {bs : List Byte} {g : Nat} (hg : 6 * g < 8 * bs.length) :
    ((encodeBits bs).drop (6 * g)).take 6 = ((tripleBits bs (g / 4)).drop (6 * (g % 4))).take 6 := by
  have hlen := length_encodeBits bs
  have hidx : 8 * (3 * (g / 4)) + 6 * (g % 4) = 6 * g := by omega
  obtain ⟨n, hzeros⟩ := encodeBits_append_zeros bs
  rw [tripleBits, ← take_byteBits, ← drop_byteBits, List.drop_take, List.drop_drop, hidx, List.take_take,
    Nat.min_eq_left (by omega), ← hzeros, List.drop_append_of_le_length (by omega),
    List.take_append_of_le_length (by rw [List.length_drop]; omega)]

/-- Group `g` of R148 is a base-64 digit of the number of its three bytes. -/
theorem bitsValue_group {bs : List Byte} {g : Nat} (hg : 6 * g < 8 * bs.length) :
    bitsValue (((encodeBits bs).drop (6 * g)).take 6) = tripleNat bs (g / 4) / 64 ^ (3 - g % 4) % 64 := by
  have hk : 3 * (g / 4) < bs.length := by omega
  have hlen := length_tripleBits hk
  have hpow : 2 ^ (24 - (6 * (g % 4) + 6)) = 64 ^ (3 - g % 4) := by
    rw [(by omega : 24 - (6 * (g % 4) + 6) = 6 * (3 - g % 4)), pow_mul]
    norm_num
  rw [group_eq_tripleBits hg, bitsValue_slice (by omega), hlen, bitsValue_tripleBits hk, hpow]
  rfl

theorem length_encodeBits_groups (bs : List Byte) : (encodeBits bs).length = 6 * ((8 * bs.length + 5) / 6) := by
  rw [length_encodeBits]
  omega

/-- The six-bit groups of R148. -/
def encodeGroups (bs : List Byte) : List (List Bool) := bitGroups 6 ((encodeBits bs).length / 6) (encodeBits bs)

theorem length_encodeGroups (bs : List Byte) : (encodeGroups bs).length = (8 * bs.length + 5) / 6 := by
  rw [encodeGroups, length_bitGroups, length_encodeBits_groups]
  omega

theorem length_of_mem_encodeGroups {bs : List Byte} {g : List Bool} (hg : g ∈ encodeGroups bs) : g.length = 6 :=
  length_of_mem_bitGroups (Nat.mul_div_le _ _) hg

theorem bitsValue_lt_of_mem_encodeGroups {bs : List Byte} {g : List Bool} (hg : g ∈ encodeGroups bs) :
    bitsValue g < 64 := by
  have hlt := bitsValue_lt g
  rwa [length_of_mem_encodeGroups hg] at hlt

theorem flatten_encodeGroups (bs : List Byte) : (encodeGroups bs).flatten = encodeBits bs :=
  flatten_bitGroups (by have := length_encodeBits_groups bs; omega)

/-- The symbols of R148, before the pads. -/
def encodeSymbols (bs : List Byte) : List Byte := (encodeGroups bs).map fun g => alpha (bitsValue g)

theorem base64Encode_eq (bs : List Byte) :
    base64Encode bs = encodeSymbols bs ++ List.replicate ((3 - bs.length % 3) % 3) padByte := rfl

theorem length_encodeSymbols (bs : List Byte) : (encodeSymbols bs).length = (8 * bs.length + 5) / 6 := by
  rw [encodeSymbols, List.length_map, length_encodeGroups]

theorem base64Encode_symbol {bs : List Byte} {g : Nat} (hg : 6 * g < 8 * bs.length) :
    (base64Encode bs).getD g 0 = alpha (tripleNat bs (g / 4) / 64 ^ (3 - g % 4) % 64) := by
  have hlen : g < (encodeSymbols bs).length := by rw [length_encodeSymbols]; omega
  rw [base64Encode_eq, List.getD_append _ _ _ _ hlen, List.getD_eq_getElem _ _ hlen, ← bitsValue_group hg]
  simp only [encodeSymbols, encodeGroups, List.getElem_map, getElem_bitGroups]

theorem base64Encode_pad {bs : List Byte} {g : Nat} (hg : 8 * bs.length ≤ 6 * g)
    (hlt : g < (base64Encode bs).length) : (base64Encode bs).getD g 0 = padByte := by
  have hlen : (encodeSymbols bs).length ≤ g := by rw [length_encodeSymbols]; omega
  rw [base64Encode_eq, List.length_append] at hlt
  rw [base64Encode_eq, List.getD_append_right _ _ _ _ hlen, List.getD_eq_getElem _ _ (by omega), List.getElem_replicate]

/-- Symbol `g` of the text as the claim says it. -/
theorem toNat_base64Encode_getD {bs : List Byte} {g : Nat} (hlt : g < (base64Encode bs).length) :
    ((base64Encode bs).getD g 0).toNat =
      if 6 * g < 8 * bs.length then alphabet.getD (tripleNat bs (g / 4) / 64 ^ (3 - g % 4) % 64) 0 else 0x3D := by
  split
  · next hg => rw [base64Encode_symbol hg, alphabet_getD (Nat.mod_lt _ (by decide))]
  · next hg => rw [base64Encode_pad (Nat.not_lt.1 hg) hlt]; rfl

/-! ## Decoding (R150) -/

theorem ne_padByte_eq : (fun c => decide (c ≠ padByte)) = fun c : Byte => decide (c.toNat ≠ 0x3D) := by
  funext c
  rw [decide_eq_decide, ne_eq, ← BitVec.toNat_inj]
  rfl

/-- The symbols of a text, every `=` removed. -/
abbrev textSymbols (t : List Byte) : List Byte := t.filter fun c => decide (c ≠ padByte)

/-- The bits of a text's symbols. -/
def textBits (t : List Byte) : List Bool := (textSymbols t).flatMap fun c => bitsMsb 6 ((symbolValue c).getD 0)

/-- The bits that R150 keeps: two for each `=` are dropped. -/
def keptBits (t : List Byte) : List Bool :=
  (textBits t).take ((textBits t).length - 2 * (t.length - (textSymbols t).length))

theorem base64Decode_eq (t : List Byte) :
    base64Decode t =
      (bitGroups 8 ((keptBits t).length / 8) (keptBits t)).map fun g => BitVec.ofNat 8 (bitsValue g) := rfl

theorem length_textBits (t : List Byte) : (textBits t).length = 6 * (textSymbols t).length :=
  length_flatMap_const _ 6 _ fun _ => length_bitsMsb ..

theorem length_keptBits (t : List Byte) :
    (keptBits t).length = 6 * (textSymbols t).length - 2 * (t.length - (textSymbols t).length) := by
  rw [keptBits, List.length_take, length_textBits]
  omega

theorem length_base64Decode (t : List Byte) :
    (base64Decode t).length = (6 * (textSymbols t).length - 2 * (t.length - (textSymbols t).length)) / 8 := by
  rw [base64Decode_eq, List.length_map, length_bitGroups, length_keptBits]

/-- The symbols are the digits of one base-64 number. -/
theorem bitsValue_textBits {t : List Byte} (h : ∀ c ∈ textSymbols t, c.toNat ∈ alphabet) :
    bitsValue (textBits t) = (textSymbols t).foldl (fun v c => 64 * v + alphabet.idxOf c.toNat) 0 := by
  have hbits : textBits t = (textSymbols t).flatMap fun c => bitsMsb 6 (alphabet.idxOf c.toNat) :=
    List.flatMap_congr fun c hc => by rw [symbolValue_of_mem_alphabet (h c hc), Option.getD_some]
  rw [hbits]
  exact bitsValue_flatMap_bitsMsb fun c hc => (alpha_of_symbolValue (symbolValue_of_mem_alphabet (h c hc))).1

theorem toNat_base64Decode_getD {t : List Byte} (h : ∀ c ∈ textSymbols t, c.toNat ∈ alphabet) {k : Nat}
    (hk : k < (base64Decode t).length) :
    ((base64Decode t).getD k 0).toNat = (textSymbols t).foldl (fun v c => 64 * v + alphabet.idxOf c.toNat) 0 /
      2 ^ (6 * (textSymbols t).length - 8 * (k + 1)) % 256 := by
  have hlen : 8 * k + 8 ≤ (keptBits t).length := by
    rw [base64Decode_eq, List.length_map, length_bitGroups] at hk
    omega
  have hkept := length_keptBits t
  have hbits := length_textBits t
  have hslice : ((keptBits t).drop (8 * k)).take 8 = ((textBits t).drop (8 * k)).take 8 := by
    rw [keptBits, List.drop_take, List.take_take, Nat.min_eq_left (by omega)]
  rw [List.getD_eq_getElem _ _ hk]
  simp only [base64Decode_eq, List.getElem_map, getElem_bitGroups]
  rw [hslice, bitsValue_slice (by omega), bitsValue_textBits h, hbits, BitVec.toNat_ofNat, Nat.mod_mod, Nat.mul_succ]
  rfl

/-! ## Round trip (R153) -/

/-- Every symbol of R148 is `ALPHA` of a six-bit number. -/
theorem encodeSymbols_alpha {bs : List Byte} {c : Byte} (h : c ∈ encodeSymbols bs) : ∃ v < 64, alpha v = c := by
  obtain ⟨g, hg, rfl⟩ := List.mem_map.1 h
  exact ⟨_, bitsValue_lt_of_mem_encodeGroups hg, rfl⟩

theorem validSymbol_base64Encode (bs : List Byte) : (base64Encode bs).all validSymbol = true := by
  rw [List.all_eq_true]
  intro c hc
  rw [base64Encode_eq, List.mem_append] at hc
  rw [validSymbol_iff]
  rcases hc with hc | hc
  · obtain ⟨v, hv, rfl⟩ := encodeSymbols_alpha hc
    exact .inr (mem_alphabet_iff.2 ⟨v, symbolValue_alpha hv⟩)
  · exact .inl (List.eq_of_mem_replicate hc)

/-- Of an encoded text the pads are removed, and the symbols stay. -/
theorem textSymbols_base64Encode (bs : List Byte) : textSymbols (base64Encode bs) = encodeSymbols bs := by
  have hsymbols : textSymbols (encodeSymbols bs) = encodeSymbols bs := List.filter_eq_self.2 fun c hc => by
    obtain ⟨v, hv, rfl⟩ := encodeSymbols_alpha hc
    exact decide_eq_true (alpha_ne_padByte hv)
  rw [base64Encode_eq, textSymbols, List.filter_append, ← textSymbols, hsymbols,
    List.filter_replicate_of_neg (by simp), List.append_nil]

/-- The bits of the symbols are the bitstream that was sliced. -/
theorem textBits_base64Encode (bs : List Byte) : textBits (base64Encode bs) = encodeBits bs := by
  have hgroup : ∀ g ∈ encodeGroups bs, bitsMsb 6 ((symbolValue (alpha (bitsValue g))).getD 0) = id g := by
    intro g hg
    rw [symbolValue_alpha (bitsValue_lt_of_mem_encodeGroups hg), Option.getD_some, ← length_of_mem_encodeGroups hg,
      bitsMsb_bitsValue, id]
  rw [textBits, textSymbols_base64Encode, encodeSymbols, List.flatMap_map, List.flatMap_congr hgroup, List.flatMap_id,
    flatten_encodeGroups]

/-- The zero bits of R148 are two for each pad, so R150 drops exactly those. -/
theorem keptBits_base64Encode (bs : List Byte) : keptBits (base64Encode bs) = byteBits bs := by
  have hlen := length_encodeBits_groups bs
  have hkeep : (encodeBits bs).length - 2 * ((base64Encode bs).length - (encodeSymbols bs).length) =
      (byteBits bs).length := by
    rw [length_base64Encode, length_encodeSymbols, length_byteBits]
    omega
  rw [keptBits, textBits_base64Encode, textSymbols_base64Encode, hkeep]
  exact List.take_left

theorem base64Decode_base64Encode (bs : List Byte) : base64Decode (base64Encode bs) = bs := by
  rw [base64Decode_eq, keptBits_base64Encode, length_byteBits, Nat.mul_div_cancel_left _ (by decide),
    bitGroups_byteBits]

/-! ## The commands (R148, R151) -/

theorem exec_b64Enc_of_le {s : State} (h : s.inlen.toNat ≤ 3072) :
    exec .b64Enc s = completed (putOutput (base64Encode (inputBytes s)) s) :=
  if_neg (Nat.not_lt.2 h)

theorem exec_b64Enc_of_gt {s : State} (h : 3072 < s.inlen.toNat) : exec .b64Enc s = .next (failed 0x06 s) :=
  if_pos h

theorem exec_b64Dec_of_valid {s : State} (h : s.inlen.toNat ≤ 4096) (hv : (inputBytes s).all validSymbol = true) :
    exec .b64Dec s = completed (putOutput (base64Decode (inputBytes s)) s) :=
  (if_neg (Nat.not_lt.2 h)).trans (if_neg (by simp [hv]))

theorem exec_b64Dec_of_invalid {s : State} (h : s.inlen.toNat ≤ 4096) (hv : (inputBytes s).all validSymbol = false) :
    exec .b64Dec s = .next (failed 0x04 s) :=
  (if_neg (Nat.not_lt.2 h)).trans (if_pos hv)

theorem exec_b64Dec_of_gt {s : State} (h : 4096 < s.inlen.toNat) : exec .b64Dec s = .next (failed 0x06 s) :=
  if_pos h

/-- The output of B64_ENC fits in OBUF (92_eei_decisions.md D25). -/
theorem length_base64Encode_le {s : State} (h : s.inlen.toNat ≤ 3072) :
    (base64Encode (inputBytes s)).length ≤ 4096 := by
  rw [length_base64Encode, length_inputBytes]
  omega

/-- The output of B64_DEC fits in OBUF (R151). -/
theorem length_base64Decode_le_buf {s : State} (h : s.inlen.toNat ≤ 4096) :
    (base64Decode (inputBytes s)).length ≤ 4096 := by
  have := length_base64Decode_le (inputBytes s)
  rw [length_inputBytes] at this
  omega

theorem byteNat_inputBytes (s : State) (i : Nat) :
    byteNat (inputBytes s) i = if i < s.inlen.toNat then (readByte s.mem (0x1000 + i)).toNat else 0 := by
  split
  · next h => exact congrArg BitVec.toNat (getD_readBytes h)
  · next h => rw [byteNat, List.getD_eq_default _ _ (by rw [length_inputBytes]; omega)]; rfl

/-- Every byte of a text is valid exactly when its symbols all lie in the alphabet (R149). -/
theorem all_validSymbol_iff {t : List Byte} :
    t.all validSymbol = true ↔ ∀ c ∈ textSymbols t, c.toNat ∈ alphabet := by
  simp only [List.all_eq_true, validSymbol_iff, List.mem_filter, decide_eq_true_eq, and_imp, or_iff_not_imp_left]

end Sys2Proof.Machine

open Sys2Proof Sys2Proof.Machine

/-- Settles O20: the claim's numbers are `tripleNat` of the input, of which each six-bit group is a digit. -/
theorem base64EncodesTriples : Obligations.Base64EncodesTriples := by
  refine ⟨by decide, fun s b n hb hn => ⟨fun h => ?_, exec_b64Enc_of_gt⟩⟩
  have hn : n = tripleNat (inputBytes s) := funext fun k => by
    simp only [hn, hb, tripleNat, byteNat_inputBytes]
  rw [exec_b64Enc_of_le h, hn, ← length_inputBytes s, ← length_base64Encode]
  exact completed_putOutput (length_base64Encode_le h) fun g hg => toNat_base64Encode_getD hg

/-- Settles O21: the claim's value is the number of the text's bits, of which each output byte is a slice. -/
theorem base64DecodesSymbols : Obligations.Base64DecodesSymbols := by
  refine ⟨by decide, fun s text symbols value pads htext hsymbols hpads hvalue => ?_⟩
  obtain rfl : text = inputBytes s := htext
  rw [← ne_padByte_eq] at hsymbols
  subst hsymbols hpads hvalue
  refine ⟨fun h hall => ?_, fun h ⟨c, hc, hbad⟩ => ?_, exec_b64Dec_of_gt⟩
  · rw [exec_b64Dec_of_valid h (all_validSymbol_iff.2 hall), ← length_base64Decode]
    exact completed_putOutput (length_base64Decode_le_buf h) fun k hk => toNat_base64Decode_getD hall hk
  · refine exec_b64Dec_of_invalid h (Bool.eq_false_iff.2 fun hv => ?_)
    exact hbad (all_validSymbol_iff.1 hv c hc)

/-- Settles O22: the decoder drops exactly the zero bits that the encoder appended. -/
theorem base64RoundTrip : Obligations.Base64RoundTrip := by
  intro s hs
  refine ⟨_, exec_b64Enc_of_le hs, fun u hlen htext => ?_⟩
  have houtlen := toNat_outlen_putOutput (length_base64Encode_le hs) s
  have htext : inputBytes u = base64Encode (inputBytes s) :=
    htext.trans ((congrArg _ houtlen).trans (readBytes_writeBytes_same s.mem 0x2000 _))
  have hu : u.inlen.toNat ≤ 4096 := by
    rw [← length_inputBytes, htext]
    exact length_base64Encode_le hs
  have hdec : exec .b64Dec u = completed (putOutput (inputBytes s) u) := by
    rw [exec_b64Dec_of_valid hu (htext ▸ validSymbol_base64Encode _), htext, base64Decode_base64Encode]
  have hout : (putOutput (inputBytes s) u).outlen = s.inlen := by
    rw [putOutput_outlen, length_inputBytes, BitVec.ofNat_toNat, BitVec.setWidth_eq]
  have hread := readBytes_writeBytes_same u.mem 0x2000 (inputBytes s)
  rw [length_inputBytes] at hread
  exact ⟨_, hdec, hout, (congrArg (fun l => readBytes _ 0x2000 (BitVec.toNat l)) hout).trans hread⟩

end

section
/-! PROOFS. The MD5 engine (43_md5.md R161 to R169): the 64 steps of the compression, byte strings absorbed block by block,
the padding, then the three commands. -/

namespace Sys2Proof.Machine

/-! ## The 64 steps (R162, R163, R165) -/

/-- The chaining value after the first `i` steps. -/
def md5Steps (mw : List Word) (h : Chain) (i : Nat) : Chain := (List.range i).foldl (md5Step mw) h

theorem md5Steps_succ (mw : List Word) (h : Chain) (i : Nat) :
    md5Steps mw h (i + 1) = md5Step mw (md5Steps mw h i) i := by
  rw [md5Steps, List.range_succ, List.foldl_concat, ← md5Steps]

/-- The model's four rows of constants are the spec's table (R162). -/
theorem md5K_eq {i : Nat} (h : i < 64) : md5K i = md5Constants.getD i 0 := by
  have hall : ∀ i < 64, md5K i = md5Constants.getD i 0 := by decide
  exact hall i h

theorem md5Word_lt {i : Nat} (h : i < 64) : md5Word i < 16 := by
  unfold md5Word
  split
  · omega
  all_goals exact Nat.mod_lt _ (by decide)

theorem messageWords_getD (blk : List Byte) {g : Nat} (h : g < 16) :
    (messageWords blk).getD g 0 =
      le32 (blk.getD (4 * g) 0) (blk.getD (4 * g + 1) 0) (blk.getD (4 * g + 2) 0) (blk.getD (4 * g + 3) 0) := by
  simp [messageWords, List.getD_eq_getElem?_getD, h]

/-- A round is sixteen steps with one function (R165), one word order (R163) and one row of rotations (R162). -/
theorem md5_round {i r : Nat} (h : i / 16 = r) (hr : r < 4) (b c d : Word) :
    md5Fun i b c d = md5Fun (16 * r) b c d ∧
      md5Word i = [i, (5 * i + 1) % 16, (3 * i + 5) % 16, 7 * i % 16].getD r 0 ∧
      md5Rot i = (md5RotRows.getD r []).getD (i % 4) 0 := by
  refine ⟨by simp only [md5Fun, h, Nat.mul_div_cancel_left r (by decide : 0 < 16)], ?_, by rw [md5Rot, h]⟩
  simp only [md5Word, h]
  interval_cases r <;> rfl

/-! ## Absorbing blocks (R167, R168) -/

/-- The chaining value after the first `n` blocks of a byte string. -/
def absorbBlocks (h : Chain) (bs : List Byte) (n : Nat) : Chain :=
  (List.range n).foldl (fun h j => compress h ((bs.drop (64 * j)).take 64)) h

theorem absorb_eq (h : Chain) (bs : List Byte) : absorb h bs = absorbBlocks h bs (bs.length / 64) := rfl

@[simp] theorem absorbBlocks_zero (h : Chain) (bs : List Byte) : absorbBlocks h bs 0 = h := by
  rw [absorbBlocks, List.range_zero, List.foldl_nil]

theorem absorbBlocks_succ (h : Chain) (bs : List Byte) (n : Nat) :
    absorbBlocks h bs (n + 1) = compress (absorbBlocks h bs n) ((bs.drop (64 * n)).take 64) := by
  rw [absorbBlocks, List.range_succ, List.foldl_concat, ← absorbBlocks]

/-- Blocks that lie in the first part of a byte string do not see the second. -/
theorem absorbBlocks_append_left (h : Chain) {xs : List Byte} (ys : List Byte) {n : Nat} (hn : 64 * n ≤ xs.length) :
    absorbBlocks h (xs ++ ys) n = absorbBlocks h xs n := by
  induction n with
  | zero => rw [absorbBlocks_zero, absorbBlocks_zero]
  | succ n ih =>
    have hblock : ((xs ++ ys).drop (64 * n)).take 64 = (xs.drop (64 * n)).take 64 := by
      rw [List.drop_append_of_le_length (by omega),
        List.take_append_of_le_length (by rw [List.length_drop]; omega)]
    rw [absorbBlocks_succ, ih (by omega), hblock, absorbBlocks_succ]

/-- After whole blocks the rest is absorbed as a byte string of its own. -/
theorem absorbBlocks_append_right (h : Chain) {xs : List Byte} (ys : List Byte) {a : Nat} (ha : xs.length = 64 * a)
    (n : Nat) : absorbBlocks h (xs ++ ys) (a + n) = absorbBlocks (absorbBlocks h xs a) ys n := by
  induction n with
  | zero => rw [Nat.add_zero, absorbBlocks_append_left h ys ha.ge, absorbBlocks_zero]
  | succ n ih =>
    have hblock : (xs ++ ys).drop (64 * (a + n)) = ys.drop (64 * n) := by
      rw [Nat.mul_add, ← ha, ← List.drop_drop, List.drop_left]
    rw [← Nat.add_assoc, absorbBlocks_succ, ih, hblock, absorbBlocks_succ]

theorem absorb_append (h : Chain) {xs : List Byte} (ys : List Byte) (hx : xs.length % 64 = 0) :
    absorb h (xs ++ ys) = absorb (absorb h xs) ys := by
  have hlen : (xs ++ ys).length / 64 = xs.length / 64 + ys.length / 64 := by
    rw [List.length_append]
    omega
  rw [absorb_eq, hlen, absorbBlocks_append_right h ys (by omega), ← absorb_eq, ← absorb_eq]

/-- Bytes after the last whole block are not absorbed. -/
theorem absorb_append_of_lt (h : Chain) {xs ys : List Byte} (hx : xs.length % 64 = 0) (hy : ys.length < 64) :
    absorb h (xs ++ ys) = absorb h xs := by
  rw [absorb_append h ys hx, absorb_eq _ ys, Nat.div_eq_of_lt hy, absorbBlocks_zero]

/-! ## The padding (R164) -/

theorem md5Pad_append {xs : List Byte} (ys : List Byte) (total : DWord) (hx : xs.length % 64 = 0) :
    md5Pad (xs ++ ys) total = xs ++ md5Pad ys total := by
  have hmod : ((xs ++ ys).length + 1) % 64 = (ys.length + 1) % 64 := by
    rw [List.length_append]
    omega
  simp only [md5Pad, hmod, List.append_assoc]

/-- The whole blocks and then the padded tail are the whole padded message (R168). -/
theorem absorb_tail (h : Chain) (bs : List Byte) (total : DWord) :
    absorb (absorb h bs) (md5Pad (bs.drop (64 * (bs.length / 64))) total) = absorb h (md5Pad bs total) := by
  have hblocks : (bs.take (64 * (bs.length / 64))).length % 64 = 0 := by
    rw [List.length_take]
    omega
  have htail : (bs.drop (64 * (bs.length / 64))).length < 64 := by
    rw [List.length_drop]
    omega
  have hbs := List.take_append_drop (64 * (bs.length / 64)) bs
  have hleft : absorb h bs = absorb h (bs.take (64 * (bs.length / 64))) := by
    rw [← absorb_append_of_lt h hblocks htail, hbs]
  rw [hleft, ← absorb_append h _ hblocks, ← md5Pad_append _ total hblocks, hbs]

theorem extractLsb'_eight_mul (v : DWord) (k : Nat) : v.extractLsb' (8 * k) 8 = BitVec.ofNat 8 (v.toNat / 256 ^ k) := by
  rw [BitVec.extractLsb', Nat.shiftRight_eq_div_pow, Nat.pow_mul]

/-- A byte of a word of a 64-bit register is a byte of the register (20_memory.md R64). -/
theorem extractLsb'_byte_of_word (v : DWord) (a : Nat) {k : Nat} (h : k + 8 ≤ 32) :
    (v.extractLsb' a 32).extractLsb' k 8 = v.extractLsb' (a + k) 8 := by
  ext i hi
  simp [show k + i < 32 by omega, Nat.add_assoc]

theorem le64Bytes_eq (v : DWord) : le64Bytes v = (List.range 8).map fun k => BitVec.ofNat 8 (v.toNat / 256 ^ k) := by
  have hbytes : le64Bytes v = (List.range 8).map fun k => v.extractLsb' (8 * k) 8 := by
    simp only [le64Bytes, wordBytes, loWord, hiWord, Nat.reduceLeDiff, Nat.reduceAdd, extractLsb'_byte_of_word]
    rfl
  rw [hbytes]
  exact List.map_congr_left fun k _ => extractLsb'_eight_mul v k

/-- The zeros of R164 are the least number that leaves 56 modulo 64. -/
theorem md5Pad_eq {t : List Byte} {total : DWord} {z n : Nat} (hz : z < 64) (hmod : (t.length + 1 + z) % 64 = 56)
    (hn : (8 * total).toNat = n) :
    md5Pad t total = t ++ [0x80] ++ List.replicate z 0x00 ++
      (List.range 8).map fun k => BitVec.ofNat 8 (n / 256 ^ k) := by
  have hzeros : (120 - (t.length + 1) % 64) % 64 = z := by omega
  rw [md5Pad, hzeros, le64Bytes_eq, hn]

/-! ## The commands (R166 to R168) -/

theorem drop_readBytes (m : List Host.Cell) (a n k : Nat) : (readBytes m a n).drop k = readBytes m (a + k) (n - k) := by
  refine List.ext_getElem (by simp) fun i _ _ => ?_
  simp [readBytes, Nat.add_assoc]

theorem inputBytes_block {s : State} {j : Nat} (h : j < s.inlen.toNat / 64) :
    ((inputBytes s).drop (64 * j)).take 64 = readBytes s.mem (0x1000 + 64 * j) 64 :=
  (congrArg (List.take 64) (drop_readBytes ..)).trans (take_readBytes (by omega))

/-- MLEN after MD5_UPDATE and MD5_FINAL. -/
def nextMlen (s : State) : DWord := s.mlen + s.inlen.setWidth 64

theorem toNat_nextMlen (s : State) : (nextMlen s).toNat = (s.mlen.toNat + s.inlen.toNat) % 2 ^ 64 := by
  rw [nextMlen, BitVec.toNat_add, BitVec.toNat_setWidth, Nat.add_mod_mod]

theorem exec_md5Init (s : State) : exec .md5Init s =
    .next { s with h0 := 0x67452301, h1 := 0xEFCDAB89, h2 := 0x98BADCFE, h3 := 0x10325476, mlen := 0, busy := false } :=
  rfl

theorem exec_md5Update_of_blocks {s : State} (h : s.inlen.toNat ≤ 4096) (h64 : s.inlen.toNat % 64 = 0) :
    exec .md5Update s = completed (putChain (absorb (chain s) (inputBytes s)) (nextMlen s) s) :=
  if_neg (not_or.2 ⟨Nat.not_lt.2 h, not_not.2 h64⟩)

theorem exec_md5Update_of_bad_length {s : State} (h : 4096 < s.inlen.toNat ∨ s.inlen.toNat % 64 ≠ 0) :
    exec .md5Update s = .next (failed 0x06 s) :=
  if_pos h

/-- The chaining value that MD5_FINAL leaves: the whole padded message absorbed. -/
def finalChain (s : State) : Chain := absorb (chain s) (md5Pad (inputBytes s) (nextMlen s))

theorem exec_md5Final_of_le {s : State} (h : s.inlen.toNat ≤ 4096) :
    exec .md5Final s =
      completed (putOutput (digestBytes (finalChain s)) (putChain (finalChain s) (nextMlen s) s)) := by
  have hchain := absorb_tail (chain s) (inputBytes s) (nextMlen s)
  rw [length_inputBytes] at hchain
  rw [finalChain, ← hchain]
  exact if_neg (Nat.not_lt.2 h)

theorem exec_md5Final_of_gt {s : State} (h : 4096 < s.inlen.toNat) : exec .md5Final s = .next (failed 0x06 s) :=
  if_pos h

/-- A message continued after whole blocks ends in the chaining value of the whole message. -/
theorem finalChain_split {s u w : State} (h64 : u.inlen.toNat % 64 = 0) (hu : chain u = chain s)
    (hw : chain w = absorb (chain u) (inputBytes u)) (hbytes : inputBytes s = inputBytes u ++ inputBytes w)
    (hlen : nextMlen w = nextMlen s) : finalChain w = finalChain s := by
  have hu64 : (inputBytes u).length % 64 = 0 := by rw [length_inputBytes, h64]
  rw [finalChain, finalChain, hw, hlen, hu, ← absorb_append _ _ hu64, hbytes, md5Pad_append _ _ hu64]

end Sys2Proof.Machine

open Sys2Proof Sys2Proof.Machine

/-- Settles O23: the values are those of the model's fold, one step at a time. -/
theorem compressIsSixtyFourSteps : Obligations.CompressIsSixtyFourSteps := by
  intro h blk w hw
  refine ⟨md5Steps (messageWords blk) h, rfl, fun i hi => ?_, rfl⟩
  rw [md5Steps_succ]
  generalize md5Steps (messageWords blk) h i = v
  refine ⟨md5Fun i v.b v.c v.d, md5Word i, md5Rot i, fun h => ?_, fun h h' => ?_, fun h h' => ?_, fun h => ?_, ?_⟩
  · exact md5_round (r := 0) (by omega) (by decide) ..
  · exact md5_round (r := 1) (by omega) (by decide) ..
  · exact md5_round (r := 2) (by omega) (by decide) ..
  · exact md5_round (r := 3) (by omega) (by decide) ..
  · rw [hw _ (md5Word_lt hi), ← messageWords_getD blk (md5Word_lt hi), ← md5K_eq hi]
    rfl

/-- Settles O24: MD5_INIT's writes are the constants. -/
theorem md5InitLoadsConstants : Obligations.Md5InitLoadsConstants := ⟨by decide, exec_md5Init⟩

/-- Settles O25: the blocks of the model's fold are those of IBUF. -/
theorem md5UpdateAbsorbsBlocks : Obligations.Md5UpdateAbsorbsBlocks := by
  refine ⟨by decide, fun s => ⟨fun h h64 => ?_, exec_md5Update_of_bad_length⟩⟩
  refine ⟨absorbBlocks (chain s) (inputBytes s), rfl, fun j hj => ?_, _, exec_md5Update_of_blocks h h64, ?_,
    toNat_nextMlen s⟩
  · rw [absorbBlocks_succ, inputBytes_block hj]
  · rw [absorb_eq, length_inputBytes]
    rfl

/-- Settles O26: the claim's message is the padded input, absorbed whole. -/
theorem md5FinalPadsAndDigests : Obligations.Md5FinalPadsAndDigests := by
  refine ⟨by decide, fun _ => exec_md5Final_of_gt, fun s z msg h hz hmod hmsg => ?_⟩
  have hbits : (8 * nextMlen s).toNat = 8 * (s.mlen.toNat + s.inlen.toNat) % 2 ^ 64 := by
    rw [BitVec.toNat_mul, toNat_nextMlen]
    exact Nat.mul_mod_mod ..
  obtain rfl : msg = md5Pad (inputBytes s) (nextMlen s) :=
    hmsg.trans (md5Pad_eq hz (by rw [length_readBytes, hmod]) hbits).symm
  exact ⟨absorbBlocks (chain s) _, rfl, fun j _ => absorbBlocks_succ .., _, exec_md5Final_of_le h, rfl,
    toNat_nextMlen s, stored_writeBytes ..⟩

/-- Settles O27: absorbing the first blocks and then the padded rest absorbs the whole padded message. -/
theorem md5SplitGivesSameDigest : Obligations.Md5SplitGivesSameDigest := by
  intro s u k hs hk h0 h1 h2 h3 hm hlen hbytes
  have h64 : u.inlen.toNat % 64 = 0 := by omega
  refine ⟨_, exec_md5Update_of_blocks (by omega) h64, fun w w0 w1 w2 w3 wm wlen wbytes => ?_⟩
  have hchain : chain u = chain s := by simp only [chain, h0, h1, h2, h3]
  have hmlen : nextMlen w = nextMlen s := by
    have wm : w.mlen = nextMlen u := wm
    have hu := toNat_nextMlen u
    rw [hm] at hu
    apply BitVec.eq_of_toNat_eq
    rw [toNat_nextMlen, toNat_nextMlen, wm]
    omega
  have hinput : inputBytes s = inputBytes u ++ inputBytes w := by
    have hfirst : inputBytes u = (inputBytes s).take (64 * k) :=
      ((congrArg _ hlen).trans hbytes).trans (take_readBytes hk).symm
    have hrest : inputBytes w = (inputBytes s).drop (64 * k) := wbytes.trans (drop_readBytes ..).symm
    rw [hfirst, hrest, List.take_append_drop]
  have hfinal : finalChain w = finalChain s :=
    finalChain_split h64 hchain (by rw [chain, w0, w1, w2, w3]; rfl) hinput hmlen
  refine ⟨_, _, exec_md5Final_of_le (by omega), exec_md5Final_of_le hs, ?_⟩
  rw [hfinal, hmlen]
  refine ⟨rfl, rfl, rfl, rfl, rfl, ?_⟩
  exact (readBytes_writeBytes_same ..).trans (readBytes_writeBytes_same ..).symm

end

section
/-! PROOFS. The AES block (44_aes.md R187 to R196): STATE byte by byte, the two S-boxes, and the commands that move a block
or apply one transform to it. -/

namespace Sys2Proof.Machine

/-! ## Blocks byte by byte (R187) -/

/-- Zeros appended to a byte string do not show in the default of `getD`. -/
theorem getD_append_zeros (bs : List Byte) (n i : Nat) : (bs ++ List.replicate n 0x00).getD i 0 = bs.getD i 0 := by
  by_cases hi : i < bs.length
  · rw [List.getD_append _ _ _ _ hi]
  · rw [List.getD_append_right _ _ _ _ (by omega), List.getD_eq_default bs _ (by omega)]
    exact List.getElem?_getD_replicate_default_eq ..

theorem ext_getD {a b : List Byte} (hl : a.length = b.length) (h : ∀ i, i < a.length → a.getD i 0 = b.getD i 0) :
    a = b := by
  refine List.ext_getElem hl fun i ha hb => ?_
  rw [← List.getD_eq_getElem a 0 ha, ← List.getD_eq_getElem b 0 hb]
  exact h i ha

theorem getD_blockOf (f : Nat → Nat → Byte) {i : Nat} (h : i < 16) : (blockOf f).getD i 0 = f (i % 4) (i / 4) := by
  simp [blockOf, List.getD, h]

theorem cell_blockOf (f : Nat → Nat → Byte) {r c : Nat} (hr : r < 4) (hc : c < 4) : cell (blockOf f) r c = f r c := by
  rw [cell, getD_blockOf f (by omega)]
  congr 1 <;> omega

/-- A block is determined by its cells. -/
theorem ext_cell {a b : List Byte} (ha : a.length = 16) (hb : b.length = 16)
    (h : ∀ r c, r < 4 → c < 4 → cell a r c = cell b r c) : a = b := by
  refine ext_getD (ha.trans hb.symm) fun i hi => ?_
  have hcell := h (i % 4) (i / 4) (by omega) (by omega)
  rwa [cell, cell, Nat.mod_add_div] at hcell

theorem getD_map_of_lt {f : Byte → Byte} {bs : List Byte} {i : Nat} (h : i < bs.length) :
    (bs.map f).getD i 0 = f (bs.getD i 0) := by
  rw [List.getD_eq_getElem _ _ (by rwa [List.length_map]), List.getElem_map, List.getD_eq_getElem _ _ h]

theorem getD_xorBytes {a b : List Byte} (h : a.length = b.length) (i : Nat) :
    (xorBytes a b).getD i 0 = a.getD i 0 ^^^ b.getD i 0 := by
  by_cases hi : i < a.length
  · have hb : i < b.length := h ▸ hi
    simp [xorBytes, List.getD, hi, hb]
  · have hb : ¬ i < b.length := h ▸ hi
    simp [xorBytes, List.getD, hi, hb]

theorem getD_roundKey (rk : List Byte) (r : Nat) {i : Nat} (h : i < 16) :
    (roundKey rk r).getD i 0 = rk.getD (16 * r + i) 0 := by
  simp [roundKey, List.getD, h]

theorem getD_addRoundKey {b : List Byte} (hb : b.length = 16) (rk : List Byte) (r : Nat) {i : Nat} (h : i < 16) :
    (addRoundKey b rk r).getD i 0 = b.getD i 0 ^^^ rk.getD (16 * r + i) 0 := by
  rw [addRoundKey, getD_xorBytes (by simp [hb]), getD_roundKey rk r h]

/-- AddRoundKey is its own inverse (R196). -/
theorem addRoundKey_addRoundKey {b : List Byte} (hb : b.length = 16) (rk : List Byte) (r : Nat) :
    addRoundKey (addRoundKey b rk r) rk r = b := by
  have hlen : (addRoundKey b rk r).length = 16 := by simp [hb]
  refine ext_getD (by simp [hb]) fun i hi => ?_
  have hi : i < 16 := by simpa [hb] using hi
  rw [getD_addRoundKey hlen rk r hi, getD_addRoundKey hb rk r hi, BitVec.xor_assoc, BitVec.xor_self, BitVec.xor_zero]

/-! ## STATE, IBUF and RK as blocks (R187) -/

theorem getD_stateBlock (s : State) {i : Nat} (h : i < 16) : (stateBlock s).getD i 0 = readByte s.mem (0x0130 + i) :=
  getD_readBytes h

theorem cell_stateBlock (s : State) {r c : Nat} (hr : r < 4) (hc : c < 4) :
    cell (stateBlock s) r c = readByte s.mem (0x0130 + r + 4 * c) := by
  rw [cell, getD_stateBlock s (by omega), ← Nat.add_assoc]

theorem getD_roundKeys (s : State) {x : Nat} (h : x < 240) : (roundKeys s).getD x 0 = readByte s.mem (0x0400 + x) :=
  getD_readBytes h

/-- The input padded to one block (R201). -/
theorem pkcs7_inputBytes {s : State} (h : s.inlen.toNat ≤ 16) :
    pkcs7 (inputBytes s) = (List.range 16).map fun i =>
      if i < s.inlen.toNat then readByte s.mem (0x1000 + i) else BitVec.ofNat 8 (16 - s.inlen.toNat) := by
  refine List.ext_getElem (by rw [length_pkcs7 (by simpa using h)]; simp) fun i hi _ => ?_
  have hi : i < 16 := by rwa [length_pkcs7 (by simpa using h)] at hi
  simp only [pkcs7, List.getElem_map, List.getElem_range, List.getElem_append, List.getElem_replicate, length_inputBytes]
  split
  · next hlt => simp [inputBytes, arrBytes, readBytes, ByteArr.base]
  · rfl

@[simp] theorem stateBlock_putBlock {b : List Byte} (hl : b.length = 16) (s : State) : stateBlock (putBlock b s) = b :=
  (congrArg (readBytes _ _) hl.symm).trans (readBytes_writeBytes_same s.mem ByteArr.state.base b)

theorem writesBlock_putBlock {s : State} {b : List Byte} {f : Nat → Byte} (hl : b.length = 16)
    (hf : ∀ i, i < 16 → b.getD i 0 = f i) : WritesBlock s (complete (putBlock b s)) f := by
  obtain ⟨hin, hout⟩ := stored_writeBytes s.mem 0x0130 b
  rw [hl] at hin hout
  exact ⟨rfl, fun i hi => (hin i hi).trans (hf i hi), hout⟩

/-- What a one-transform command does, as the claims say it (R205 to R210). -/
theorem transformState_writesBlock {f : List Byte → List Byte} {g : Nat → Byte} {s : State}
    (hl : (f (stateBlock s)).length = 16) (hg : ∀ i, i < 16 → (f (stateBlock s)).getD i 0 = g i) :
    ∃ t, transformState f s = .next t ∧ WritesBlock s t g :=
  ⟨_, transformState_eq f s, writesBlock_putBlock hl hg⟩

/-! ## The S-boxes (R191 to R193) -/

theorem invSbox_sbox (a : Byte) : invSbox (sbox a) = a := by
  revert a
  decide

theorem sbox_invSbox (a : Byte) : sbox (invSbox a) = a := by
  revert a
  decide

/-- `aff(b)` of R193. -/
def affineByte (b : Byte) : Byte :=
  b ^^^ b.rotateLeft 1 ^^^ b.rotateLeft 2 ^^^ b.rotateLeft 3 ^^^ b.rotateLeft 4 ^^^ 0x63

/-- The byte whose S-box entry is `aff(b)` is the inverse of `b`, computed for all 255 nonzero bytes (R193). -/
theorem gmul_invSbox_affineByte {b : Byte} (hb : b ≠ 0x00) : gmul (invSbox (affineByte b)) b = 0x01 := by
  revert b
  decide

theorem eq_of_gmul_eq_one {a a' b : Byte} (h : gmul a b = 0x01) (h' : gmul a' b = 0x01) : a = a' :=
  calc a = gmul a (gmul a' b) := by rw [h', gmul_one]
    _ = gmul a' (gmul a b) := by rw [← gmul_assoc, gmul_comm a, gmul_assoc]
    _ = a' := by rw [h, gmul_one]

theorem sbox_eq_affineByte {a b : Byte} (h : gmul a b = 0x01) : sbox a = affineByte b := by
  have hb : b ≠ 0x00 := by
    rintro rfl
    rw [gmul_zero] at h
    exact absurd h (by decide)
  rw [eq_of_gmul_eq_one h (gmul_invSbox_affineByte hb), sbox_invSbox]

/-! ## The matrices (R190, R195) -/

theorem getD_mixColumns (b : List Byte) {r c : Nat} (hr : r < 4) (hc : c < 4) :
    (mixColumns b).getD (4 * c + r) 0 = mixByte 0x02 0x03 0x01 0x01 b r c := by
  rw [Nat.add_comm]
  exact cell_blockOf _ hr hc

theorem getD_invMixColumns (b : List Byte) {r c : Nat} (hr : r < 4) (hc : c < 4) :
    (invMixColumns b).getD (4 * c + r) 0 = mixByte 0x0E 0x0B 0x0D 0x09 b r c := by
  rw [Nat.add_comm]
  exact cell_blockOf _ hr hc

/-- The matrix of `mixByte` row by row, times column `c` of STATE: each row is the one above rotated right by one. -/
theorem mixByte_stateBlock {s : State} {b : Nat → Nat → Byte} (hb : ∀ r c, b r c = readByte s.mem (0x0130 + r + 4 * c))
    (k0 k1 k2 k3 : Byte) {c : Nat} (hc : c < 4) :
    mixByte k0 k1 k2 k3 (stateBlock s) 0 c = gmul k0 (b 0 c) ^^^ gmul k1 (b 1 c) ^^^ gmul k2 (b 2 c) ^^^ gmul k3 (b 3 c) ∧
    mixByte k0 k1 k2 k3 (stateBlock s) 1 c = gmul k3 (b 0 c) ^^^ gmul k0 (b 1 c) ^^^ gmul k1 (b 2 c) ^^^ gmul k2 (b 3 c) ∧
    mixByte k0 k1 k2 k3 (stateBlock s) 2 c = gmul k2 (b 0 c) ^^^ gmul k3 (b 1 c) ^^^ gmul k0 (b 2 c) ^^^ gmul k1 (b 3 c) ∧
    mixByte k0 k1 k2 k3 (stateBlock s) 3 c =
      gmul k1 (b 0 c) ^^^ gmul k2 (b 1 c) ^^^ gmul k3 (b 2 c) ^^^ gmul k0 (b 3 c) := by
  have hcell : ∀ r, r < 4 → cell (stateBlock s) r c = b r c := fun r hr =>
    (cell_stateBlock s hr hc).trans (hb r c).symm
  simp only [mixByte, Nat.reduceAdd, Nat.reduceMod, hcell, Nat.reduceLT, true_and]
  refine ⟨?_, ?_, ?_⟩ <;> ac_rfl

/-! ## The commands -/

theorem exec_aesLoad_of_le {s : State} (h : s.inlen.toNat ≤ 16) :
    exec .aesLoad s = completed (putBlock (pkcs7 (inputBytes s)) s) :=
  if_neg (Nat.not_lt.2 h)

theorem exec_aesLoad_of_gt {s : State} (h : 16 < s.inlen.toNat) : exec .aesLoad s = .next (failed 0x06 s) := if_pos h

theorem exec_aesStore (s : State) : exec .aesStore s = completed (putOutput (stateBlock s) s) := rfl

theorem exec_aesAddrk_of_unkeyed {s : State} (hv : s.kvalid = false) (r : Nat) :
    exec (.aesAddrk r) s = .next (failed 0x07 s) :=
  if_pos hv

theorem exec_aesAddrk_of_gt {s : State} {r : Nat} (hv : s.kvalid = true) (h : s.nr.toNat < r) :
    exec (.aesAddrk r) s = .next (failed 0x08 s) :=
  (if_neg (by simp [hv])).trans (if_pos h)

theorem exec_aesAddrk_of_le {s : State} {r : Nat} (hv : s.kvalid = true) (h : r ≤ s.nr.toNat) :
    exec (.aesAddrk r) s = completed (putBlock (addRoundKey (stateBlock s) (roundKeys s) r) s) :=
  (if_neg (by simp [hv])).trans (if_neg (Nat.not_lt.2 h))

theorem decode_aesAddrk {r : Nat} (h : r ≤ 255) : decode (BitVec.ofNat 32 (256 * r + 0x53)) = .ok (.aesAddrk r) := by
  have hw : (BitVec.ofNat 32 (256 * r + 0x53)).toNat = 256 * r + 0x53 := by
    rw [BitVec.toNat_ofNat, Nat.mod_eq_of_lt (by omega)]
  have hop : opField (BitVec.ofNat 32 (256 * r + 0x53)) = opAddrk := (opField_eq_opAddrk_iff _).2 (by omega)
  have harg : (argField (BitVec.ofNat 32 (256 * r + 0x53))).toNat = r := by rw [toNat_argField]; omega
  refine (decode_ok_iff _ _).2 ⟨(rsvField_eq_zero_iff _).2 (by omega), ?_, .inr hop⟩
  rw [hop, harg]
  rfl

/-- A schedule has at most 15 round keys, so round key `NR` lies in RK (R186). -/
theorem nr_le_of_scheduleInv {s : State} (hs : ScheduleInv s) (hv : s.kvalid = true) : s.nr.toNat ≤ 14 := by
  have hlegal := of_decide_eq_true (hs.legal hv)
  rw [hs.rounds hv, roundsOf]
  omega

theorem roundKeys_putBlock {b : List Byte} (hl : b.length = 16) (s : State) : roundKeys (putBlock b s) = roundKeys s :=
  readBytes_writeBytes_disjoint (.inr (by simp [hl, ByteArr.base]))

end Sys2Proof.Machine

open Sys2Proof Sys2Proof.Machine

/-- Settles O29: the padded input has the claim's bytes. -/
theorem aesLoadPads : Obligations.AesLoadPads := by
  refine ⟨by decide, fun s => ⟨fun h => ⟨_, exec_aesLoad_of_le h, ?_⟩, exec_aesLoad_of_gt⟩⟩
  refine writesBlock_putBlock (length_pkcs7 (by simpa using h)) fun i hi => ?_
  rw [pkcs7_inputBytes h]
  simp [List.getD, hi]

/-- Settles O30: the output is the 16 bytes of STATE. -/
theorem aesStoreCopiesState : Obligations.AesStoreCopiesState := by
  refine ⟨by decide, fun s => ⟨_, exec_aesStore s, rfl, ?_⟩⟩
  obtain ⟨hin, hout⟩ := stored_writeBytes s.mem 0x2000 (stateBlock s)
  rw [length_stateBlock] at hin hout
  exact ⟨fun i hi => (hin i hi).trans (getD_stateBlock s hi), hout⟩

/-- Settles O31: AES_ADDRK writes neither KVALID, NR nor RK, so the second run xors the same round key. -/
theorem addRoundKeyXorsRoundKey : Obligations.AddRoundKeyXorsRoundKey := by
  refine ⟨fun r => decode_aesAddrk, fun s r hv => exec_aesAddrk_of_unkeyed hv r, fun s r => exec_aesAddrk_of_gt,
    fun s r hs hv hr => ?_⟩
  have hlen : (addRoundKey (stateBlock s) (roundKeys s) r).length = 16 := by simp
  have hnr := nr_le_of_scheduleInv hs hv
  refine ⟨_, _, exec_aesAddrk_of_le hv hr, writesBlock_putBlock hlen fun i hi => ?_, exec_aesAddrk_of_le hv hr, ?_⟩
  · rw [getD_addRoundKey (length_stateBlock s) _ r hi, getD_stateBlock s hi, getD_roundKeys s (by omega), Nat.add_assoc]
  · have hkeys : roundKeys (complete (putBlock (addRoundKey (stateBlock s) (roundKeys s) r) s)) = roundKeys s :=
      roundKeys_putBlock hlen s
    have hblock : stateBlock (complete (putBlock (addRoundKey (stateBlock s) (roundKeys s) r) s)) =
        addRoundKey (stateBlock s) (roundKeys s) r := stateBlock_putBlock hlen s
    rw [hkeys, hblock, addRoundKey_addRoundKey (length_stateBlock s)]
    exact stateBlock_putBlock (length_stateBlock s) _

/-- Settles O32: each transform maps a table over the 16 bytes. -/
theorem subBytesUsesSbox : Obligations.SubBytesUsesSbox := by
  have hmap : ∀ (f : Byte → Byte) (s : State), ∃ t, transformState (List.map f) s = .next t ∧
      WritesBlock s t fun i => f (readByte s.mem (0x0130 + i)) := fun f s =>
    transformState_writesBlock (by simp) fun i hi => by
      rw [getD_map_of_lt (by simpa using hi), getD_stateBlock s hi]
  exact ⟨by decide, by decide, fun s => ⟨hmap sbox s, hmap invSbox s⟩⟩

/-- Settles O33: inverses in GF(2^8) are unique, so computing the one of each byte is enough. -/
theorem sboxMatchesAlgebra : Obligations.SboxMatchesAlgebra :=
  ⟨by decide, fun _ _ => sbox_eq_affineByte, invSbox_sbox, sbox_invSbox⟩

/-- Settles O34: both transforms pick a column of the same row. -/
theorem shiftRowsRotatesRows : Obligations.ShiftRowsRotatesRows := by
  refine ⟨by decide, by decide, fun s => ⟨?_, ?_⟩⟩
  · refine transformState_writesBlock (length_shiftRows _) fun i hi => ?_
    rw [shiftRows, getD_blockOf _ hi, cell_stateBlock s (by omega) (by omega)]
  · refine transformState_writesBlock (length_invShiftRows _) fun i hi => ?_
    rw [invShiftRows, getD_blockOf _ hi, cell_stateBlock s (by omega) (by omega)]
    congr 3
    omega

/-- Settles O35: the rows of the two matrices. -/
theorem mixColumnsMultipliesColumns : Obligations.MixColumnsMultipliesColumns := by
  refine ⟨by decide, by decide, fun s b hb => ⟨?_, ?_⟩⟩
  · refine ⟨_, _, transformState_eq mixColumns s, writesBlock_putBlock (length_mixColumns _) fun _ _ => rfl, fun c hc => ?_⟩
    have hrows := mixByte_stateBlock hb 0x02 0x03 0x01 0x01 hc
    simp only [one_gmul, ← getD_mixColumns (stateBlock s) _ hc, Nat.reduceLT] at hrows
    exact hrows
  · refine ⟨_, _, transformState_eq invMixColumns s, writesBlock_putBlock (length_invMixColumns _) fun _ _ => rfl,
      fun c hc => ?_⟩
    have hrows := mixByte_stateBlock hb 0x0E 0x0B 0x0D 0x09 hc
    simp only [← getD_invMixColumns (stateBlock s) _ hc, Nat.reduceLT] at hrows
    exact hrows

end

section
/-! PROOFS. The AES key expansion (44_aes.md R197 to R200): the recurrence over words, then over the bytes of RK. -/

namespace Sys2Proof.Machine

/-! ## The words of a schedule (R199) -/

/-- The words that follow the first `nk` meet the recurrence of R199. -/
def WordRecurrence (nk : Nat) (ws : List (List Byte)) : Prop :=
  ∀ i, nk ≤ i → i < ws.length →
    ws.getD i [] = xorBytes (ws.getD (i - nk) []) (scheduleTemp nk i (ws.getD (i - 1) []))

theorem getD_expandStep_of_lt (nk : Nat) {ws : List (List Byte)} {i : Nat} (h : i < ws.length) :
    (expandStep nk ws).getD i [] = ws.getD i [] :=
  List.getD_append _ _ _ _ h

theorem getD_expandStep_last (nk : Nat) (ws : List (List Byte)) :
    (expandStep nk ws).getD ws.length [] =
      xorBytes (ws.getD (ws.length - nk) []) (scheduleTemp nk ws.length (ws.getD (ws.length - 1) [])) := by
  rw [expandStep, List.getD_append_right _ _ _ _ (Nat.le_refl _), Nat.sub_self]
  rfl

theorem wordRecurrence_expandStep {nk : Nat} {ws : List (List Byte)} (hnk : 0 < nk) (h : WordRecurrence nk ws) :
    WordRecurrence nk (expandStep nk ws) := by
  intro i hi hlt
  have hlen : (expandStep nk ws).length = ws.length + 1 := by simp [expandStep]
  rw [getD_expandStep_of_lt nk (i := i - nk) (by omega), getD_expandStep_of_lt nk (i := i - 1) (by omega)]
  by_cases hlast : i = ws.length
  · rw [hlast, getD_expandStep_last]
  · rw [getD_expandStep_of_lt nk (by omega), h i hi (by omega)]

/-- The key's own words `w[0 .. Nk-1]`. -/
def keyWords (key : List Byte) (nk : Nat) : List (List Byte) := (List.range nk).map fun i => (key.drop (4 * i)).take 4

theorem length_keyWords (key : List Byte) (nk : Nat) : (keyWords key nk).length = nk := by simp [keyWords]

/-- A schedule begins with the key's words, and the others meet the recurrence. -/
theorem scheduleWords_spec {key : List Byte} {nk : Nat} (hk : key.length = 4 * nk) (hnk : 0 < nk) :
    keyWords key nk <+: scheduleWords key ∧ WordRecurrence nk (scheduleWords key) := by
  have hdiv : key.length / 4 = nk := by omega
  rw [scheduleWords, hdiv]
  refine List.foldlRecOn (motive := fun ws => keyWords key nk <+: ws ∧ WordRecurrence nk ws) _ _
    ⟨List.prefix_refl _, fun i hi hlt => ?_⟩ fun ws hws _ _ => ?_
  · exact absurd hlt (Nat.not_lt.2 ((length_keyWords key nk).le.trans hi))
  · obtain ⟨hpre, hrec⟩ := hws
    exact ⟨hpre.trans (List.prefix_append _ _), wordRecurrence_expandStep hnk hrec⟩

/-! ## The bytes of a schedule (R187) -/

/-- Byte `k` of word `i` of words laid end to end. -/
theorem getD_flatten_words {ws : List (List Byte)} (hws : ∀ w ∈ ws, w.length = 4) (i : Nat) {k : Nat} (hk : k < 4) :
    ws.flatten.getD (4 * i + k) 0 = (ws.getD i []).getD k 0 := by
  induction ws generalizing i with
  | nil => simp
  | cons w ws ih =>
    have hw : w.length = 4 := hws w (by simp)
    cases i with
    | zero =>
      rw [Nat.mul_zero, Nat.zero_add, List.flatten_cons, List.getD_append _ _ _ _ (by omega)]
      rfl
    | succ i =>
      rw [List.flatten_cons, List.getD_append_right _ _ _ _ (by omega), List.getD_cons_succ,
        ← ih (fun v hv => hws v (List.mem_cons_of_mem _ hv)) i, hw]
      congr 1
      omega

/-- Byte `k` of a rotated word (R197). -/
theorem getD_rotWord {w : List Byte} (hw : w.length = 4) {k : Nat} (hk : k < 4) :
    (rotWord w).getD k 0 = w.getD ((k + 1) % 4) 0 := by
  obtain ⟨a, b, c, d, rfl⟩ := List.length_eq_four.1 hw
  interval_cases k <;> rfl

theorem getD_rcon (j : Nat) {k : Nat} (hk : k < 4) : (rcon j).getD k 0 = if k = 0 then rc j else 0x00 := by
  interval_cases k <;> rfl

/-- Byte `k` of what is xored into word `i - Nk` (R199). -/
def tempByte (nk i k : Nat) (prev : Nat → Byte) : Byte :=
  if i % nk = 0 then sbox (prev ((k + 1) % 4)) ^^^ (if k = 0 then rc (i / nk) else 0x00)
  else if nk = 8 ∧ i % nk = 4 then sbox (prev k)
  else prev k

theorem tempByte_congr {nk i k : Nat} {prev prev' : Nat → Byte} (hk : k < 4) (h : ∀ j, j < 4 → prev j = prev' j) :
    tempByte nk i k prev = tempByte nk i k prev' := by
  rw [tempByte, tempByte, h k hk, h _ (Nat.mod_lt _ (by decide))]

theorem length_scheduleTemp {w : List Byte} (hw : w.length = 4) (nk i : Nat) : (scheduleTemp nk i w).length = 4 := by
  unfold scheduleTemp
  split
  · simp [subWord, length_rotWord hw, rcon]
  · split
    · simp [subWord, hw]
    · exact hw

theorem getD_scheduleTemp {w : List Byte} (hw : w.length = 4) (nk i : Nat) {k : Nat} (hk : k < 4) :
    (scheduleTemp nk i w).getD k 0 = tempByte nk i k fun k => w.getD k 0 := by
  have hrot : (rotWord w).length = 4 := length_rotWord hw
  unfold scheduleTemp tempByte
  split
  · rw [getD_xorBytes (by simp [subWord, hrot, rcon]), subWord, getD_map_of_lt (by omega), getD_rotWord hw hk,
      getD_rcon _ hk]
  · split
    · rw [subWord, getD_map_of_lt (by omega)]
    · rfl

/-- The schedule begins with the key. -/
theorem getD_keyExpansion_of_lt {key : List Byte} {nk : Nat} (hk : key.length = 4 * nk) (hnk : 0 < nk) {x : Nat}
    (hx : x < 4 * nk) : (keyExpansion key).getD x 0 = key.getD x 0 := by
  obtain ⟨hlen, hws⟩ := wordsOk_scheduleWords hk hnk
  obtain ⟨⟨rest, hrest⟩, -⟩ := scheduleWords_spec hk hnk
  have hword : (scheduleWords key).getD (x / 4) [] = (key.drop (4 * (x / 4))).take 4 := by
    rw [← hrest, List.getD_append _ _ _ _ (by rw [length_keyWords]; omega)]
    simp [keyWords, List.getD, show x / 4 < nk by omega]
  have hbyte := getD_flatten_words hws (x / 4) (k := x % 4) (Nat.mod_lt _ (by decide))
  rw [Nat.div_add_mod, hword] at hbyte
  rw [keyExpansion, hbyte]
  simp [List.getD, Nat.mod_lt, Nat.div_add_mod]

/-- Every later byte of the schedule by the recurrence of R199. -/
theorem getD_keyExpansion_of_ge {key : List Byte} {nk : Nat} (hk : key.length = 4 * nk) (hnk : 0 < nk) {i k : Nat}
    (hi : nk ≤ i) (hlt : i < 4 * (nk + 7)) (hk4 : k < 4) :
    (keyExpansion key).getD (4 * i + k) 0 = (keyExpansion key).getD (4 * (i - nk) + k) 0 ^^^
      tempByte nk i k fun k => (keyExpansion key).getD (4 * (i - 1) + k) 0 := by
  have hok := wordsOk_scheduleWords hk hnk
  have hword : ∀ j, j < 4 * (nk + 7) → ((scheduleWords key).getD j []).length = 4 := fun j hj => wordsOk_getD hok hj
  have hbyte : ∀ j k, k < 4 → (keyExpansion key).getD (4 * j + k) 0 = ((scheduleWords key).getD j []).getD k 0 :=
    fun j _ hk4 => getD_flatten_words hok.2 j hk4
  have hprev : ((scheduleWords key).getD (i - 1) []).length = 4 := hword _ (by omega)
  have hxor : ((scheduleWords key).getD (i - nk) []).length =
      (scheduleTemp nk i ((scheduleWords key).getD (i - 1) [])).length := by
    rw [hword _ (by omega), length_scheduleTemp hprev]
  have hrec := (scheduleWords_spec hk hnk).2 i hi (hok.1 ▸ hlt)
  rw [hbyte i k hk4, hrec, getD_xorBytes hxor, getD_scheduleTemp hprev nk i hk4, hbyte _ k hk4,
    tempByte_congr hk4 fun j hj => hbyte (i - 1) j hj]

/-! ## RK after AES_KEYEXP (R200) -/

theorem legalKeyLength_iff {n : Nat} : legalKeyLength n = true ↔ n ∈ [16, 24, 32] := by simp [legalKeyLength]

theorem legalKeyLength_eq_false {n : Nat} (h : n ∉ [16, 24, 32]) : legalKeyLength n = false :=
  Bool.eq_false_iff.2 fun hk => h (legalKeyLength_iff.1 hk)

theorem exec_aesKeyexp_of_legal {s : State} (hk : s.keylen.toNat ∈ [16, 24, 32]) :
    exec .aesKeyexp s = completed (expandKey s) :=
  if_neg (by simp [legalKeyLength_iff.2 hk])

theorem exec_aesKeyexp_of_illegal {s : State} (hk : s.keylen.toNat ∉ [16, 24, 32]) :
    exec .aesKeyexp s = .next (failed 0x02 s) :=
  if_pos (legalKeyLength_eq_false hk)

theorem toNat_nr_expandKey {s : State} (hk : s.keylen.toNat ∈ [16, 24, 32]) :
    (expandKey s).nr.toNat = s.keylen.toNat / 4 + 6 :=
  (scheduleInv_expandKey (legalKeyLength_iff.2 hk)).rounds rfl

/-- RK holds the schedule with 0x00 above it. -/
theorem readByte_expandKey_rk {s : State} (hk : s.keylen.toNat ∈ [16, 24, 32]) {x : Nat} (hx : x < 240) :
    readByte (expandKey s).mem (0x0400 + x) = (keyExpansion (keyBytes s)).getD x 0 := by
  have hlen := length_schedule (legalKeyLength_iff.2 hk)
  exact (readByte_writeBytes_inside (by rwa [hlen])).trans (getD_append_zeros ..)

/-- The constants the claim writes out are those of the recurrence (R198). -/
theorem rc_eq {j : Nat} (h1 : 1 ≤ j) (h10 : j ≤ 10) :
    rc j = [0x01#8, 0x02#8, 0x04#8, 0x08#8, 0x10#8, 0x20#8, 0x40#8, 0x80#8, 0x1B#8, 0x36#8].getD (j - 1) 0 := by
  interval_cases j <;> rfl

end Sys2Proof.Machine

open Sys2Proof Sys2Proof.Machine

/-- Settles O28: RK holds the bytes of the schedule, which meet the recurrence. -/
theorem keyExpansionRecurrence : Obligations.KeyExpansionRecurrence := by
  refine ⟨by decide, fun s => exec_aesKeyexp_of_illegal, fun s nk hlen hnk => ?_⟩
  have hk : s.keylen.toNat ∈ [16, 24, 32] := by simp only [List.mem_cons, List.not_mem_nil, or_false]; omega
  have hkey : (keyBytes s).length = 4 * nk := (length_keyBytes s).trans hlen
  have hpos : 0 < nk := by omega
  have hrk : ∀ x, x < 240 → readByte (complete (expandKey s)).mem (0x0400 + x) = (keyExpansion (keyBytes s)).getD x 0 :=
    fun x => readByte_expandKey_rk hk
  refine ⟨_, exec_aesKeyexp_of_legal hk, rfl, ?_, fun x hx => ?_, fun i k hi hlt hk4 => ?_, fun x hx hx' => ?_,
    fun x => readByte_expandKey (legalKeyLength_iff.2 hk)⟩
  · exact (toNat_nr_expandKey hk).trans (by omega)
  · rw [hrk x (by omega), getD_keyExpansion_of_lt hkey hpos hx]
    exact getD_readBytes (hlen ▸ hx)
  · have hbyte : ∀ j k, j < 4 * (nk + 7) → k < 4 → readByte (complete (expandKey s)).mem (0x0400 + 4 * j + k) =
        (keyExpansion (keyBytes s)).getD (4 * j + k) 0 := fun j k hj hk => by rw [Nat.add_assoc, hrk _ (by omega)]
    rw [hbyte i k hlt hk4, hbyte (i - nk) k (by omega) hk4, getD_keyExpansion_of_ge hkey hpos hi hlt hk4,
      tempByte_congr hk4 fun j hj => (hbyte (i - 1) j (by omega) hj).symm]
    have hrc := rc_eq (Nat.div_pos hi hpos) (j := i / nk) 
      (Nat.le_of_lt_succ ((Nat.div_lt_iff_lt_mul hpos).2 (by omega)))
    have hmid : nk = 8 ∧ i % nk = 4 ↔ nk = 8 ∧ i % 8 = 4 := and_congr_right fun h8 => by rw [h8]
    simp only [tempByte, hrc, hmid]
  · have hlast := length_keyExpansion hkey hpos
    rw [hrk x hx', List.getD_eq_default _ _ (by rw [hlast, roundsOf]; omega)]

end

section
/-! PROOFS. The AES cipher (44_aes.md R211 to R216): its rounds, why the inverse cipher undoes it, the whole-call commands,
and the step commands that compose to them. -/

namespace Sys2Proof.Machine

/-! ## The transforms undo each other (R192, R194, R195) -/

theorem invSubBytes_subBytes (b : List Byte) : invSubBytes (subBytes b) = b := by
  have hid : invSbox ∘ sbox = id := funext invSbox_sbox
  rw [invSubBytes, subBytes, List.map_map, hid, List.map_id]

theorem invShiftRows_shiftRows {b : List Byte} (hb : b.length = 16) : invShiftRows (shiftRows b) = b := by
  refine ext_cell (length_invShiftRows _) hb fun r c hr hc => ?_
  rw [invShiftRows, cell_blockOf _ hr hc, shiftRows, cell_blockOf _ hr (by omega)]
  congr 1
  omega

/-- A row of the inverse matrix times the matrix, on a column `a0, a1, a2, a3` (R195): in GF(2^8) the coefficient of `a0` is
1 and the others are 0. -/
theorem invMatrix_mul_matrix (a0 a1 a2 a3 : Byte) :
    gmul 0x0E (gmul 0x02 a0 ^^^ gmul 0x03 a1 ^^^ gmul 0x01 a2 ^^^ gmul 0x01 a3) ^^^
      gmul 0x0B (gmul 0x02 a1 ^^^ gmul 0x03 a2 ^^^ gmul 0x01 a3 ^^^ gmul 0x01 a0) ^^^
      gmul 0x0D (gmul 0x02 a2 ^^^ gmul 0x03 a3 ^^^ gmul 0x01 a0 ^^^ gmul 0x01 a1) ^^^
      gmul 0x09 (gmul 0x02 a3 ^^^ gmul 0x03 a0 ^^^ gmul 0x01 a1 ^^^ gmul 0x01 a2) = a0 := by
  have h0 : gmul 0x0E 0x02 ^^^ 0x0B ^^^ 0x0D ^^^ gmul 0x09 0x03 = 0x01 := by decide
  have h1 : gmul 0x0E 0x03 ^^^ gmul 0x0B 0x02 ^^^ 0x0D ^^^ 0x09 = 0x00 := by decide
  have h2 : 0x0E ^^^ gmul 0x0B 0x03 ^^^ gmul 0x0D 0x02 ^^^ 0x09 = 0x00 := by decide
  have h3 : 0x0E ^^^ 0x0B ^^^ gmul 0x0D 0x03 ^^^ gmul 0x09 0x02 = 0x00 := by decide
  apply_fun gfClass at h0 h1 h2 h3
  apply gfClass_injective
  simp only [gfClass_xor, gfClass_gmul, gfClass_one, gfClass_zero] at h0 h1 h2 h3 ⊢
  linear_combination gfClass a0 * h0 + gfClass a1 * h1 + gfClass a2 * h2 + gfClass a3 * h3

theorem invMixColumns_mixColumns {b : List Byte} (hb : b.length = 16) : invMixColumns (mixColumns b) = b := by
  refine ext_cell (length_invMixColumns _) hb fun r c hr hc => ?_
  have hmix : ∀ r, r < 4 → cell (mixColumns b) r c = mixByte 0x02 0x03 0x01 0x01 b r c := fun r hr => cell_blockOf _ hr hc
  have hmod : ∀ k, (r + k) % 4 < 4 := fun k => Nat.mod_lt _ (by decide)
  rw [invMixColumns, cell_blockOf _ hr hc, mixByte, hmix r hr, hmix _ (hmod 1), hmix _ (hmod 2), hmix _ (hmod 3)]
  interval_cases r <;> exact invMatrix_mul_matrix ..

/-! ## The rounds of the cipher (R211) -/

/-- The block after the first `r` rounds. -/
def cipherState (b rk : List Byte) (rounds r : Nat) : List Byte :=
  (List.range' 1 r).foldl (cipherRound rk rounds) (addRoundKey b rk 0)

@[simp] theorem cipherState_zero (b rk : List Byte) (rounds : Nat) : cipherState b rk rounds 0 = addRoundKey b rk 0 := rfl

theorem cipherState_succ (b rk : List Byte) (rounds r : Nat) :
    cipherState b rk rounds (r + 1) = cipherRound rk rounds (cipherState b rk rounds r) (r + 1) := by
  rw [cipherState, List.range'_1_concat, List.foldl_concat, ← cipherState, Nat.add_comm]

theorem cipher_eq (b rk : List Byte) (rounds : Nat) : cipher b rk rounds = cipherState b rk rounds rounds := rfl

theorem cipherRound_of_ne (rk b : List Byte) {rounds r : Nat} (h : r ≠ rounds) :
    cipherRound rk rounds b r = addRoundKey (mixColumns (shiftRows (subBytes b))) rk r := by
  rw [cipherRound, if_neg h]

theorem cipherRound_last (rk b : List Byte) (rounds : Nat) :
    cipherRound rk rounds b rounds = addRoundKey (shiftRows (subBytes b)) rk rounds := by
  rw [cipherRound, if_pos rfl]

theorem length_cipherState {b : List Byte} (hb : b.length = 16) (rk : List Byte) (rounds r : Nat) :
    (cipherState b rk rounds r).length = 16 :=
  length_foldl_block _ (fun b r _ => by rw [cipherRound]; split <;> simp) _ _ (by simp [hb])

/-! ## The rounds of the inverse cipher (R212) -/

/-- The block after the rounds of the inverse cipher down to round `r`. -/
def invCipherState (b rk : List Byte) (rounds r : Nat) : List Byte :=
  (List.range' r (rounds - r)).reverse.foldl (invCipherRound rk) (addRoundKey b rk rounds)

@[simp] theorem invCipherState_first (b rk : List Byte) (rounds : Nat) :
    invCipherState b rk rounds rounds = addRoundKey b rk rounds := by
  rw [invCipherState, Nat.sub_self]
  rfl

theorem invCipherState_of_lt (b rk : List Byte) {rounds r : Nat} (h : r < rounds) :
    invCipherState b rk rounds r = invCipherRound rk (invCipherState b rk rounds (r + 1)) r := by
  have hlen : rounds - r = (rounds - (r + 1)) + 1 := by omega
  rw [invCipherState, hlen, List.range'_succ, List.reverse_cons, List.foldl_concat, ← invCipherState]

theorem invCipher_eq (b rk : List Byte) (rounds : Nat) : invCipher b rk rounds = invCipherState b rk rounds 0 := by
  rw [invCipher, List.range_eq_range']
  rfl

theorem invCipherRound_of_ne (rk b : List Byte) {r : Nat} (h : r ≠ 0) :
    invCipherRound rk b r = invMixColumns (addRoundKey (invSubBytes (invShiftRows b)) rk r) := by
  rw [invCipherRound, if_neg h]

theorem invCipherRound_zero (rk b : List Byte) :
    invCipherRound rk b 0 = addRoundKey (invSubBytes (invShiftRows b)) rk 0 := by
  rw [invCipherRound, if_pos rfl]

/-! ## The inverse cipher undoes the cipher (R213) -/

/-- The inverse cipher enters round `r` with what the cipher had before MixColumns of round `r + 1`. -/
theorem invCipherState_cipher {p : List Byte} (hp : p.length = 16) (rk : List Byte) {rounds r : Nat} (h : r < rounds) :
    invCipherState (cipher p rk rounds) rk rounds (r + 1) = shiftRows (subBytes (cipherState p rk rounds r)) := by
  obtain ⟨k, rfl⟩ := Nat.exists_eq_add_of_lt h
  induction k generalizing r with
  | zero =>
    rw [Nat.add_zero, invCipherState_first, cipher_eq, cipherState_succ, cipherRound_last,
      addRoundKey_addRoundKey (length_shiftRows _)]
  | succ k ih =>
    have hnext := ih (r := r + 1) (by omega)
    rw [show r + 1 + k + 1 = r + (k + 1) + 1 by omega] at hnext
    rw [invCipherState_of_lt _ _ (by omega), hnext, invCipherRound_of_ne _ _ (by omega),
      invShiftRows_shiftRows (by rw [length_subBytes, length_cipherState hp]), invSubBytes_subBytes, cipherState_succ,
      cipherRound_of_ne _ _ (by omega), addRoundKey_addRoundKey (length_mixColumns _),
      invMixColumns_mixColumns (length_shiftRows _)]

theorem invCipher_cipher {p : List Byte} (hp : p.length = 16) (rk : List Byte) {rounds : Nat} (h : 0 < rounds) :
    invCipher (cipher p rk rounds) rk rounds = p := by
  rw [invCipher_eq, invCipherState_of_lt _ _ h, invCipherState_cipher hp rk h, invCipherRound_zero,
    invShiftRows_shiftRows (by rw [length_subBytes, length_cipherState hp]), invSubBytes_subBytes, cipherState_zero,
    addRoundKey_addRoundKey hp]

/-! ## The whole-call commands (R215, R216) -/

theorem roundKeys_expandKey {s : State} (hk : s.keylen.toNat ∈ [16, 24, 32]) :
    roundKeys (expandKey s) =
      keyExpansion (keyBytes s) ++ List.replicate (Config.rkBytes - (keyExpansion (keyBytes s)).length) 0x00 :=
  (congrArg (readBytes _ _) (length_schedule (legalKeyLength_iff.2 hk)).symm).trans (readBytes_writeBytes_same ..)

theorem roundKey_append_zeros (rk : List Byte) (n r : Nat) :
    roundKey (rk ++ List.replicate n 0x00) r = roundKey rk r := by
  simp only [roundKey, getD_append_zeros]

/-- The cipher does not see the zeros above the schedule. -/
theorem cipher_append_zeros (b rk : List Byte) (n rounds : Nat) :
    cipher b (rk ++ List.replicate n 0x00) rounds = cipher b rk rounds := by
  have hround : cipherRound (rk ++ List.replicate n 0x00) rounds = cipherRound rk rounds := by
    funext b r
    simp only [cipherRound, addRoundKey, roundKey_append_zeros]
  rw [cipher, cipher, hround, addRoundKey, addRoundKey, roundKey_append_zeros]

theorem invCipher_append_zeros (b rk : List Byte) (n rounds : Nat) :
    invCipher b (rk ++ List.replicate n 0x00) rounds = invCipher b rk rounds := by
  have hround : invCipherRound (rk ++ List.replicate n 0x00) = invCipherRound rk := by
    funext b r
    simp only [invCipherRound, addRoundKey, roundKey_append_zeros]
  rw [invCipher, invCipher, hround, addRoundKey, addRoundKey, roundKey_append_zeros]

/-- The block that AES_ENC computes, with the round keys read from RK. -/
def encryptedBlock (s : State) : List Byte :=
  cipher (pkcs7 (inputBytes s)) (roundKeys (expandKey s)) (s.keylen.toNat / 4 + 6)

/-- The block that AES_DEC computes, with the round keys read from RK. -/
def decryptedBlock (s : State) : List Byte :=
  invCipher (inputBytes s) (roundKeys (expandKey s)) (s.keylen.toNat / 4 + 6)

theorem length_encryptedBlock {s : State} (h : s.inlen.toNat ≤ 16) : (encryptedBlock s).length = 16 :=
  length_cipher (length_pkcs7 (by rwa [length_inputBytes])) _ _

theorem length_decryptedBlock {s : State} (h : s.inlen.toNat = 16) : (decryptedBlock s).length = 16 :=
  length_invCipher (by rwa [length_inputBytes]) _ _

/-- The writes of AES_ENC and AES_DEC, whose block is `b`. -/
def putResult (b : List Byte) (s : State) : State := putOutput b (putBlock b (expandKey s))

theorem exec_aesEnc_of_illegal {s : State} (hk : s.keylen.toNat ∉ [16, 24, 32]) :
    exec .aesEnc s = .next (failed 0x02 s) :=
  if_pos (legalKeyLength_eq_false hk)

theorem exec_aesEnc_of_gt {s : State} (hk : s.keylen.toNat ∈ [16, 24, 32]) (h : 16 < s.inlen.toNat) :
    exec .aesEnc s = .next (failed 0x06 s) :=
  (if_neg (by simp [legalKeyLength_iff.2 hk])).trans (if_pos h)

theorem exec_aesEnc_of_le {s : State} (hk : s.keylen.toNat ∈ [16, 24, 32]) (h : s.inlen.toNat ≤ 16) :
    exec .aesEnc s = completed (putResult (encryptedBlock s) s) := by
  rw [encryptedBlock, roundKeys_expandKey hk, cipher_append_zeros]
  exact (if_neg (by simp [legalKeyLength_iff.2 hk])).trans (if_neg (Nat.not_lt.2 h))

theorem exec_aesDec_of_illegal {s : State} (hk : s.keylen.toNat ∉ [16, 24, 32]) :
    exec .aesDec s = .next (failed 0x02 s) :=
  if_pos (legalKeyLength_eq_false hk)

theorem exec_aesDec_of_ne {s : State} (hk : s.keylen.toNat ∈ [16, 24, 32]) (h : s.inlen.toNat ≠ 16) :
    exec .aesDec s = .next (failed 0x06 s) :=
  (if_neg (by simp [legalKeyLength_iff.2 hk])).trans (if_pos h)

theorem exec_aesDec_of_eq {s : State} (hk : s.keylen.toNat ∈ [16, 24, 32]) (h : s.inlen.toNat = 16) :
    exec .aesDec s = completed (putResult (decryptedBlock s) s) := by
  rw [decryptedBlock, roundKeys_expandKey hk, invCipher_append_zeros]
  exact (if_neg (by simp [legalKeyLength_iff.2 hk])).trans (if_neg (not_not.2 h))

section
variable {s : State} {b : List Byte} (hb : b.length = 16)
include hb

theorem putResult_eq : putResult b s = { expandKey s with mem := (putResult b s).mem, outlen := 16 } := by
  simp only [putResult, putOutput, hb]
  rfl

theorem stateBlock_putResult : stateBlock (putResult b s) = b :=
  (readBytes_writeBytes_disjoint (.inl (by decide))).trans (stateBlock_putBlock hb (expandKey s))

theorem readBytes_putResult_obuf : readBytes (putResult b s).mem 0x2000 16 = b :=
  (congrArg (readBytes _ _) hb.symm).trans (readBytes_writeBytes_same ..)

theorem readByte_putResult {x : Nat} (h1 : x < 0x0130 ∨ 0x0140 ≤ x) (h2 : x < 0x2000 ∨ 0x2010 ≤ x) :
    readByte (putResult b s).mem x = readByte (expandKey s).mem x :=
  (readByte_writeBytes_outside (by rwa [hb])).trans (readByte_putBlock hb h1)

end

theorem inputBytes_expandKey {s : State} (hk : s.keylen.toNat ∈ [16, 24, 32]) :
    inputBytes (expandKey s) = inputBytes s :=
  readBytes_congr fun _ hx _ => readByte_expandKey (legalKeyLength_iff.2 hk) (.inr (le_trans (by decide) hx))

/-! ## The step commands (R214) -/

theorem runAll_append {is : List Instr} {s t : State} (h : runAll is s = .next t) (js : List Instr) :
    runAll (is ++ js) s = runAll js t := by
  induction is generalizing s with
  | nil =>
    cases h
    rfl
  | cons i is ih =>
    obtain ⟨u, hu⟩ := exec_next i s
    simp only [List.cons_append, runAll, hu] at h ⊢
    exact ih h

/-- KVALID is set for `rounds` rounds, RK holds `rk` and STATE holds `b`. -/
structure Keyed (rk : List Byte) (rounds : Nat) (b : List Byte) (t : State) : Prop where
  valid : t.kvalid = true
  nr : t.nr.toNat = rounds
  keys : roundKeys t = rk
  block : stateBlock t = b

/-- The commands run from every keyed state with block `b`, and turn the block into `b'`. -/
def Computes (rk : List Byte) (rounds : Nat) (is : List Instr) (b b' : List Byte) : Prop :=
  ∀ t, Keyed rk rounds b t → ∃ u, runAll is t = .next u ∧ Keyed rk rounds b' u

section
variable {rk : List Byte} {rounds : Nat}

theorem Keyed.length_block {b : List Byte} {t : State} (h : Keyed rk rounds b t) : b.length = 16 := by
  rw [← h.block, length_stateBlock]

theorem Keyed.store {b b' : List Byte} {t : State} (h : Keyed rk rounds b t) (hb : b'.length = 16) :
    Keyed rk rounds b' (complete (putBlock b' t)) where
  valid := h.valid
  nr := h.nr
  keys := (roundKeys_putBlock hb t).trans h.keys
  block := stateBlock_putBlock hb t

theorem Computes.nil (b : List Byte) : Computes rk rounds [] b b := fun t h => ⟨t, rfl, h⟩

theorem Computes.append {is js : List Instr} {b b' b'' : List Byte} (h : Computes rk rounds is b b')
    (h' : Computes rk rounds js b' b'') : Computes rk rounds (is ++ js) b b'' := fun t ht => by
  obtain ⟨u, hu, hku⟩ := h t ht
  rw [runAll_append hu]
  exact h' u hku

theorem Computes.cons {i : Instr} {is : List Instr} {b b' b'' : List Byte} (h : Computes rk rounds [i] b b')
    (h' : Computes rk rounds is b' b'') : Computes rk rounds (i :: is) b b'' :=
  h.append h'

/-- A round computed for every round number of a list is the fold of the rounds. -/
theorem Computes.flatMap {cmds : Nat → List Instr} {f : List Byte → Nat → List Byte} {l : List Nat}
    (h : ∀ r ∈ l, ∀ b, Computes rk rounds (cmds r) b (f b r)) (b : List Byte) :
    Computes rk rounds (l.flatMap cmds) b (l.foldl f b) := by
  induction l generalizing b with
  | nil => exact .nil b
  | cons r l ih =>
    exact (h r List.mem_cons_self b).append (ih (fun q hq => h q (List.mem_cons_of_mem _ hq)) (f b r))

theorem computes_transform {i : Instr} {f : List Byte → List Byte} (hi : ∀ s, exec i s = transformState f s)
    (hf : ∀ b, b.length = 16 → (f b).length = 16) (b : List Byte) : Computes rk rounds [i] b (f b) := fun t ht => by
  refine ⟨_, ?_, ht.store (hf b ht.length_block)⟩
  rw [runAll, hi, transformState_eq, ht.block]
  rfl

theorem computes_addrk {r : Nat} (hr : r ≤ rounds) (b : List Byte) :
    Computes rk rounds [.aesAddrk r] b (addRoundKey b rk r) := fun t ht => by
  refine ⟨_, ?_, ht.store (by simp [ht.length_block])⟩
  rw [runAll, exec_aesAddrk_of_le ht.valid (ht.nr ▸ hr), ht.block, ht.keys]
  rfl

theorem computes_subbytes (b : List Byte) : Computes rk rounds [.aesSubbytes] b (subBytes b) :=
  computes_transform (fun _ => rfl) (fun b hb => (length_subBytes b).trans hb) b

theorem computes_invsubbytes (b : List Byte) : Computes rk rounds [.aesInvsubbytes] b (invSubBytes b) :=
  computes_transform (fun _ => rfl) (fun b hb => (length_invSubBytes b).trans hb) b

theorem computes_shiftrows (b : List Byte) : Computes rk rounds [.aesShiftrows] b (shiftRows b) :=
  computes_transform (fun _ => rfl) (fun b _ => length_shiftRows b) b

theorem computes_invshiftrows (b : List Byte) : Computes rk rounds [.aesInvshiftrows] b (invShiftRows b) :=
  computes_transform (fun _ => rfl) (fun b _ => length_invShiftRows b) b

theorem computes_mixcolumns (b : List Byte) : Computes rk rounds [.aesMixcolumns] b (mixColumns b) :=
  computes_transform (fun _ => rfl) (fun b _ => length_mixColumns b) b

theorem computes_invmixcolumns (b : List Byte) : Computes rk rounds [.aesInvmixcolumns] b (invMixColumns b) :=
  computes_transform (fun _ => rfl) (fun b _ => length_invMixColumns b) b

theorem computes_middleRound {r : Nat} (hr : r < rounds) (b : List Byte) :
    Computes rk rounds (middleRound r) b (cipherRound rk rounds b r) := by
  rw [cipherRound_of_ne rk b hr.ne]
  exact (computes_subbytes b).cons ((computes_shiftrows _).cons ((computes_mixcolumns _).cons (computes_addrk hr.le _)))

theorem computes_invMiddleRound {r : Nat} (h0 : r ≠ 0) (hr : r < rounds) (b : List Byte) :
    Computes rk rounds (invMiddleRound r) b (invCipherRound rk b r) := by
  rw [invCipherRound_of_ne rk b h0]
  exact (computes_invshiftrows b).cons
    ((computes_invsubbytes _).cons ((computes_addrk hr.le _).cons (computes_invmixcolumns _)))

/-- The sequence of R214 computes the cipher. -/
theorem computes_cipherCommands (h : 0 < rounds) (b : List Byte) :
    Computes rk rounds (cipherCommands rounds) b (cipher b rk rounds) := by
  obtain ⟨k, rfl⟩ := Nat.exists_eq_add_of_lt h
  rw [Nat.zero_add, cipher_eq, cipherState_succ, cipherRound_last]
  refine (computes_addrk (Nat.zero_le _) b).cons ((Computes.flatMap (fun r hr b => ?_) _).append
    ((computes_subbytes _).cons ((computes_shiftrows _).cons (computes_addrk le_rfl _))))
  have hr := List.mem_range'_1.1 hr
  exact computes_middleRound (by omega) b

/-- The inverse sequence of R212 computes the inverse cipher. -/
theorem computes_invCipherCommands (h : 0 < rounds) (b : List Byte) :
    Computes rk rounds (invCipherCommands rounds) b (invCipher b rk rounds) := by
  rw [invCipher_eq, invCipherState_of_lt _ _ h, invCipherRound_zero]
  refine (computes_addrk le_rfl b).cons ((Computes.flatMap (fun r hr b => ?_) _).append
    ((computes_invshiftrows _).cons ((computes_invsubbytes _).cons (computes_addrk (Nat.zero_le _) _))))
  have hr := List.mem_range'_1.1 (List.mem_reverse.1 hr)
  exact computes_invMiddleRound (by omega) (by omega) b

end

/-- After AES_KEYEXP and AES_LOAD the core is keyed, and STATE holds the padded input. -/
theorem runAll_keyexp_load {s : State} (hk : s.keylen.toNat ∈ [16, 24, 32]) (h : s.inlen.toNat ≤ 16) (is : List Instr) :
    ∃ t, runAll (.aesKeyexp :: .aesLoad :: is) s = runAll is t ∧
      Keyed (roundKeys (expandKey s)) (s.keylen.toNat / 4 + 6) (pkcs7 (inputBytes s)) t := by
  have hkeyed : Keyed (roundKeys (expandKey s)) (s.keylen.toNat / 4 + 6) (stateBlock (complete (expandKey s)))
      (complete (expandKey s)) := ⟨rfl, toNat_nr_expandKey hk, rfl, rfl⟩
  have hinput : inputBytes (complete (expandKey s)) = inputBytes s := inputBytes_expandKey hk
  have hload : exec .aesLoad (complete (expandKey s)) =
      completed (putBlock (pkcs7 (inputBytes s)) (complete (expandKey s))) := hinput ▸ exec_aesLoad_of_le h
  refine ⟨_, ?_, hkeyed.store (length_pkcs7 (by rwa [length_inputBytes]))⟩
  simp only [runAll, exec_aesKeyexp_of_legal hk, completed, hload]

end Sys2Proof.Machine

open Sys2Proof Sys2Proof.Machine

/-- Settles O36: the claim's blocks are those of the model's fold, one round at a time. -/
theorem aesEncRunsCipher : Obligations.AesEncRunsCipher := by
  refine ⟨by decide, fun s => exec_aesEnc_of_illegal, fun s => exec_aesEnc_of_gt, fun s rounds hk h hrounds => ?_⟩
  have hlen := length_encryptedBlock h
  refine ⟨_, _, exec_aesEnc_of_le hk h, exec_aesKeyexp_of_legal hk, congrArg complete (putResult_eq hlen),
    fun x => readByte_putResult hlen, cipherState (pkcs7 (inputBytes s)) (roundKeys (expandKey s)) rounds, ?_,
    fun r h1 hr => ?_, ?_, ?_⟩
  · rw [← pkcs7_inputBytes h]
    rfl
  · obtain ⟨q, rfl⟩ := Nat.exists_eq_add_of_le' h1
    exact (cipherState_succ ..).trans (cipherRound_of_ne _ _ hr.ne)
  · obtain ⟨q, rfl⟩ : ∃ q, rounds = q + 1 := ⟨_, hrounds⟩
    exact (cipherState_succ ..).trans (cipherRound_last ..)
  · rw [hrounds]
    exact ⟨stateBlock_putResult hlen, readBytes_putResult_obuf hlen⟩

/-- Settles O37: the claim's blocks are those of the model's fold, one inverse round at a time. -/
theorem aesDecRunsInverseCipher : Obligations.AesDecRunsInverseCipher := by
  refine ⟨by decide, fun s => exec_aesDec_of_illegal, fun s => exec_aesDec_of_ne, fun s rounds hk h hrounds => ?_⟩
  have hlen := length_decryptedBlock h
  refine ⟨_, _, exec_aesDec_of_eq hk h, exec_aesKeyexp_of_legal hk, congrArg complete (putResult_eq hlen),
    fun x => readByte_putResult hlen, invCipherState (inputBytes s) (roundKeys (expandKey s)) rounds, ?_,
    fun r h1 hr => ?_, ?_, ?_⟩
  · rw [invCipherState_first, inputBytes, h]
    rfl
  · exact (invCipherState_of_lt _ _ hr).trans (invCipherRound_of_ne _ _ (by omega))
  · exact (invCipherState_of_lt _ _ (by omega)).trans (invCipherRound_zero ..)
  · rw [← invCipher_eq, hrounds]
    exact ⟨stateBlock_putResult hlen, readBytes_putResult_obuf hlen⟩

/-- Settles O38: each step command computes its transform on a keyed state, and keeps it keyed. -/
theorem stepCommandsComposeToCipher : Obligations.StepCommandsComposeToCipher := by
  refine fun s hk => ⟨fun h => ?_, fun h => ?_⟩
  · obtain ⟨t, hrun, ht⟩ := runAll_keyexp_load hk h (cipherCommands (s.keylen.toNat / 4 + 6))
    obtain ⟨u, hu, hkeyed⟩ := computes_cipherCommands (Nat.succ_pos _) _ t ht
    exact ⟨u, _, hrun.trans hu, exec_aesEnc_of_le hk h, hkeyed.valid,
      hkeyed.block.trans (stateBlock_putResult (length_encryptedBlock h)).symm⟩
  · obtain ⟨t, hrun, ht⟩ := runAll_keyexp_load hk h.le (invCipherCommands (s.keylen.toNat / 4 + 6))
    have hpad : pkcs7 (inputBytes s) = inputBytes s := by simp [pkcs7, h]
    obtain ⟨u, hu, hkeyed⟩ := computes_invCipherCommands (Nat.succ_pos _) _ t (hpad ▸ ht)
    exact ⟨u, _, hrun.trans hu, exec_aesDec_of_eq hk h, hkeyed.valid,
      hkeyed.block.trans (stateBlock_putResult (length_decryptedBlock h)).symm⟩

/-- Settles O39: the two commands expand the same key, and the inverse cipher undoes the cipher. -/
theorem aesDecryptionInvertsEncryption : Obligations.AesDecryptionInvertsEncryption := by
  refine fun s hk h => ⟨_, exec_aesEnc_of_le hk h, fun u hkeylen hkey hinlen hinput => ?_⟩
  have huk : u.keylen.toNat ∈ [16, 24, 32] := hkeylen ▸ hk
  have hle : s.keylen.toNat ≤ 32 := by simp only [List.mem_cons, List.not_mem_nil, or_false] at hk; omega
  have hkeys : keyBytes u = keyBytes s := by
    have htake := congrArg (List.take s.keylen.toNat) hkey
    rw [take_readBytes hle, take_readBytes hle] at htake
    rw [keyBytes, hkeylen]
    exact htake
  have hschedule : roundKeys (expandKey u) = roundKeys (expandKey s) := by
    rw [roundKeys_expandKey huk, roundKeys_expandKey hk, hkeys]
  have hciphertext : inputBytes u = encryptedBlock s := by
    rw [inputBytes, hinlen]
    exact hinput.trans (readBytes_putResult_obuf (length_encryptedBlock h))
  have hplain : decryptedBlock u = pkcs7 (inputBytes s) := by
    rw [decryptedBlock, hciphertext, hschedule, hkeylen]
    exact invCipher_cipher (length_pkcs7 (by rwa [length_inputBytes])) _ (Nat.succ_pos _)
  exact ⟨_, exec_aesDec_of_eq huk hinlen,
    (readBytes_putResult_obuf (length_decryptedBlock hinlen)).trans (hplain.trans (pkcs7_inputBytes h))⟩

end

section
/-! PROOFS. The RSA unit (45_rsa.md): the results of its commands as exact numbers, and why decryption undoes
encryption. -/

namespace Sys2Proof.Machine

/-! ## The results fit their registers (R233) -/

/-- R holds a value below a 64-bit modulus unchanged. -/
theorem toNat_ofNat_of_lt_modulus {v : Nat} {m : DWord} (h : v < m.toNat) : (BitVec.ofNat 64 v).toNat = v :=
  Nat.mod_eq_of_lt (h.trans m.isLt)

/-- The product of two 32-bit numbers fits a 64-bit register. -/
theorem toNat_ofNat_mul {a b : Nat} (ha : a < 2 ^ 32) (hb : b < 2 ^ 32) : (BitVec.ofNat 64 (a * b)).toNat = a * b :=
  Nat.mod_eq_of_lt ((Nat.mul_lt_mul'' ha hb).trans_eq (by norm_num))

theorem toNat_modexp {x y : Nat} {m : DWord} (hy : y < 2 ^ 64) (hm : m.toNat ≠ 0) :
    (BitVec.ofNat 64 (modexp x y m.toNat)).toNat = x ^ y % m.toNat := by
  rw [modexp_eq _ _ _ hy]
  exact toNat_ofNat_of_lt_modulus (Nat.mod_lt _ (Nat.pos_of_ne_zero hm))

/-! ## The powers (R236 to R238) -/

section
variable {s : State} {e : Nat}

theorem rsaPower_of_lt (he : e < 2 ^ 64) (h : s.x.toNat < s.n.toNat) :
    ∃ t, rsaPower e s = .next t ∧ t = { s with r := t.r, busy := false } ∧ t.r.toNat = s.x.toNat ^ e % s.n.toNat := by
  have hn : s.n.toNat ≠ 0 := Nat.ne_zero_of_lt h
  exact ⟨_, (if_neg hn).trans (if_pos h), rfl, toNat_modexp he hn⟩

theorem rsaPower_of_ge (hn : s.n.toNat ≠ 0) (h : s.n.toNat ≤ s.x.toNat) :
    ∃ t, rsaPower e s = .next t ∧ t = { s with r := t.r, draws := t.draws, busy := false } ∧
      t.r.toNat < s.n.toNat := by
  have hlt : Config.rsaDraw s.draws % s.n.toNat < s.n.toNat := Nat.mod_lt _ (Nat.pos_of_ne_zero hn)
  exact ⟨_, (if_neg hn).trans (if_neg (Nat.not_lt.2 h)), rfl, (toNat_ofNat_of_lt_modulus hlt).trans_lt hlt⟩

theorem rsaPower_of_zero (h : s.n.toNat = 0) : rsaPower e s = .next (failed 0x09 s) := if_pos h

end

theorem exec_rsaModexp_of_zero {s : State} (h : s.m.toNat = 0) : exec .rsaModexp s = .next (failed 0x09 s) := if_pos h

theorem exec_rsaModexp_of_ne_zero {s : State} (h : s.m.toNat ≠ 0) :
    exec .rsaModexp s = completed (putR (modexp s.x.toNat s.y.toNat s.m.toNat) s) :=
  if_neg h

/-! ## The inverse (R239) -/

theorem exec_rsaModinv_of_zero {s : State} (h : s.m.toNat = 0) : exec .rsaModinv s = .next (failed 0x09 s) := if_pos h

theorem exec_rsaModinv_of_common_factor {s : State} (h : s.m.toNat ≠ 0)
    (hg : Nat.gcd (s.x.toNat % s.m.toNat) s.m.toNat ≠ 1) : exec .rsaModinv s = .next (failed 0x0A s) :=
  (if_neg h).trans (if_pos hg)

theorem exec_rsaModinv_of_coprime {s : State} (h : s.m.toNat ≠ 0)
    (hg : Nat.gcd (s.x.toNat % s.m.toNat) s.m.toNat = 1) :
    exec .rsaModinv s = completed (putR (modinv s.x.toNat s.m.toNat) s) :=
  (if_neg h).trans (if_neg (not_not.2 hg))

/-! ## The key (R235) -/

theorem exec_rsaKeygen_of_lt_two {s : State} (h : s.p.toNat < 2 ∨ s.q.toNat < 2) :
    exec .rsaKeygen s = .next (failed 0x0B s) :=
  if_pos h

section
variable {s : State} (hp : 2 ≤ s.p.toNat) (hq : 2 ≤ s.q.toNat)
include hp hq

theorem exec_rsaKeygen_of_common_factor (hg : Nat.gcd 17 ((s.p.toNat - 1) * (s.q.toNat - 1)) ≠ 1) :
    exec .rsaKeygen s = .next (failed 0x0A s) :=
  (if_neg (by omega)).trans (if_pos hg)

theorem exec_rsaKeygen_of_coprime (hg : Nat.gcd 17 ((s.p.toNat - 1) * (s.q.toNat - 1)) = 1) :
    ∃ t, exec .rsaKeygen s = .next t ∧ t = { s with n := t.n, phi := t.phi, d := t.d, busy := false } ∧
      t.n.toNat = s.p.toNat * s.q.toNat ∧ t.phi.toNat = (s.p.toNat - 1) * (s.q.toNat - 1) ∧
      t.d.toNat < t.phi.toNat ∧ 17 * t.d.toNat % t.phi.toNat = 1 % t.phi.toNat := by
  have hphi := toNat_ofNat_mul (a := s.p.toNat - 1) (b := s.q.toNat - 1) (by omega) (by omega)
  have hpos : 0 < (s.p.toNat - 1) * (s.q.toNat - 1) := Nat.mul_pos (by omega) (by omega)
  obtain ⟨hlt, hinv⟩ := modinv_spec (a := 17) hpos (hphi ▸ BitVec.isLt _) (by rwa [← Nat.gcd_rec, Nat.gcd_comm])
  have hlt' := hlt.trans_eq hphi.symm
  have hd := toNat_ofNat_of_lt_modulus hlt'
  refine ⟨_, (if_neg (by omega)).trans (if_neg (not_not.2 hg)), rfl, toNat_ofNat_mul s.p.isLt s.q.isLt, hphi, ?_, ?_⟩
  · exact hd.trans_lt hlt'
  · exact (congrArg₂ (17 * · % ·) hd hphi).trans (hinv.trans (congrArg (1 % ·) hphi.symm))

end

/-! ## Decryption undoes encryption (R240) -/

theorem totient_mul_of_distinct_primes {p q : Nat} (hp : p.Prime) (hq : q.Prime) (hne : p ≠ q) :
    Nat.totient (p * q) = (p - 1) * (q - 1) := by
  rw [Nat.totient_mul ((Nat.coprime_primes hp hq).2 hne), Nat.totient_prime hp, Nat.totient_prime hq]

/-- Euler's theorem: exponents inverse to each other modulo the totient undo each other. -/
theorem pow_pow_mod_of_inverse_exponents {x n e d : Nat} (hn : 1 < n) (hx : x < n) (hcop : x.Coprime n)
    (hed : e * d % Nat.totient n = 1 % Nat.totient n) : (x ^ e % n) ^ d % n = x :=
  calc (x ^ e % n) ^ d % n
      = x ^ (e * d) % n := by rw [← Nat.pow_mod, ← pow_mul]
    _ = x ^ (1 % Nat.totient n) % n := by rw [Nat.pow_totient_mod hn hcop, hed]
    _ = x ^ 1 % n := (Nat.pow_totient_mod hn hcop).symm
    _ = x := by rw [pow_one, Nat.mod_eq_of_lt hx]

end Sys2Proof.Machine

open Sys2Proof Sys2Proof.Machine

/-- Settles O40: both factors of PHI fit in 32 bits, so the products are exact, and Euclid's loop inverts 17. -/
theorem rsaKeygenDerivesKey : Obligations.RsaKeygenDerivesKey :=
  ⟨by decide, fun _ => exec_rsaKeygen_of_lt_two, fun _ => exec_rsaKeygen_of_common_factor,
    fun _ => exec_rsaKeygen_of_coprime⟩

/-- Settles O41: both commands are one power with another exponent. -/
theorem rsaPowersAreExact : Obligations.RsaPowersAreExact :=
  ⟨by decide, by decide, fun s =>
    ⟨fun h => ⟨rsaPower_of_lt (by decide) h, rsaPower_of_lt s.d.isLt h⟩,
      fun hn h => ⟨rsaPower_of_ge hn h, rsaPower_of_ge hn h⟩,
      fun h => ⟨rsaPower_of_zero h, rsaPower_of_zero h⟩⟩⟩

/-- Settles O42: square-and-multiply over all 64 bits of Y is the power. -/
theorem modexpIsExact : Obligations.ModexpIsExact :=
  ⟨by decide, fun s =>
    ⟨fun h => ⟨_, exec_rsaModexp_of_ne_zero h, rfl, toNat_modexp s.y.isLt h⟩, exec_rsaModexp_of_zero⟩⟩

/-- Settles O43: the Bézout coefficient reduced modulo M is the inverse, and fits R. -/
theorem modinvIsInverse : Obligations.ModinvIsInverse := by
  refine ⟨by decide, fun s => ⟨fun h hg => ?_, exec_rsaModinv_of_common_factor, exec_rsaModinv_of_zero⟩⟩
  obtain ⟨hlt, hinv⟩ := modinv_spec (Nat.pos_of_ne_zero h) s.m.isLt hg
  have hr := toNat_ofNat_of_lt_modulus hlt
  exact ⟨_, exec_rsaModinv_of_coprime h hg, rfl, hr.trans_lt hlt,
    (congrArg (s.x.toNat * · % s.m.toNat) hr).trans hinv⟩

/-- Settles O44: PHI is the totient of N, so the exponents 17 and D undo each other. -/
theorem eulerRoundTrip : Obligations.EulerRoundTrip := by
  intro s hp hq hne hg
  obtain ⟨k, hk, -, hn, hphi, -, hinv⟩ := exec_rsaKeygen_of_coprime hp.two_le hq.two_le hg
  have htot : Nat.totient k.n.toNat = k.phi.toNat := by
    rw [hn, hphi, totient_mul_of_distinct_primes hp hq (mt BitVec.eq_of_toNat_eq hne)]
  have hn1 : 1 < k.n.toNat := hn ▸ Nat.one_lt_mul_iff.2 ⟨hp.pos, hq.pos, .inl hp.one_lt⟩
  refine ⟨k, hk, fun x hx hcop => ?_⟩
  obtain ⟨c, hc, hframe, hcr⟩ := rsaPower_of_lt (s := { k with x := x }) (e := 17) (by decide) hx
  have hcn : c.n = k.n := (congrArg State.n hframe :)
  have hcd : c.d = k.d := (congrArg State.d hframe :)
  have hclt : c.r.toNat < c.n.toNat := by
    rw [hcr, hcn]
    exact Nat.mod_lt _ (Nat.zero_lt_of_lt hx)
  obtain ⟨v, hv, -, hvr⟩ := rsaPower_of_lt (s := { c with x := c.r }) c.d.isLt hclt
  refine ⟨c, hc, v, hv, BitVec.eq_of_toNat_eq ?_⟩
  rw [hvr, hcr, hcn, hcd]
  exact pow_pow_mod_of_inverse_exponents hn1 hx hcop (by rw [htot, hinv])

end

section
/-! PROOFS. Errors (60_exceptions.md R256 to R261): an illegal word fails when it executes, no run stops, and a command
reports the first error of its checks. -/

namespace Sys2Proof.Machine

/-! ## Illegal words (R257) -/

theorem engineStep_of_illegal {s : State} (h : ¬ LegalWord s.pending) : engineStep s = .next (failed 0x01 s) := by
  obtain ⟨e, he⟩ := (decodeFollowsTheMap s.pending).2 h
  rw [engineStep, he]
  rfl

theorem step_engineTurn_illegal {s u : State} (hb : s.busy = true) (hu : EngineTurn s u) (h : ¬ LegalWord s.pending) :
    step s = .next (failed 0x01 u) := by
  have hp : u.pending = s.pending := (congrArg State.pending hu.eq :)
  rw [step_engineTurn hb hu, engineStep_of_illegal (hp ▸ h)]

/-- A CMD write while BUSY = 0 is accepted, whatever its word (10_state.md R27). -/
theorem step_accept {s : State} {v : Word} {rest : List Input} (hb : s.busy = false)
    (ha : NextAccess s 0x0000 (.write v) rest) :
    ∃ t, step s = .next t ∧ t.busy = true ∧ t.pending = v :=
  ⟨_, step_write_idle hb rfl (targetAt_offset .cmd) ha, rfl, rfl⟩

/-! ## Nothing stops (R259, R261) -/

theorem engineStep_next (s : State) : ∃ t, engineStep s = .next t := by
  unfold engineStep
  split
  · exact exec_next _ s
  · exact ⟨_, rfl⟩

theorem step_engineTurn_next {s u : State} (hu : EngineTurn s u) : ∃ t, step s = .next t := by
  cases hb : s.busy with
  | false => exact ⟨u, step_engineTurn_idle hb hu⟩
  | true =>
    rw [step_engineTurn hb hu]
    exact engineStep_next u

theorem step_next (s : State) : ∃ t, step s = .next t :=
  match hi : s.inputs with
  | [] => step_engineTurn_next (.inl ⟨hi, rfl⟩)
  | .engine :: rest => step_engineTurn_next (.inr ⟨rest, hi, rfl⟩)
  | .access _ :: _ => ⟨_, step_access hi⟩
  | .reset _ :: _ => ⟨_, step_reset hi⟩

/-- A run that goes on after its first step. -/
theorem run_succ {M : Host.Core} {s t : M.State} (h : M.step s = .next t) (k : Nat) : M.run (k + 1) s = M.run k t := by
  rw [Host.Core.run, h]

/-! ## The errors of VIG_KEY and B64_DEC, in the words of R260 -/

theorem letterShift_one_eq_iff {b : Byte} : letterShift b 1 = b.toNat ↔ isLetter b = false := by
  constructor
  · intro h
    by_contra hl
    rw [letterShift_of_letter (by simpa using hl)] at h
    omega
  · exact fun h => letterShift_of_not_letter h 1

theorem normKeyword_eq_nil {k : List Byte} (h : ∀ b ∈ k, letterShift b 1 = b.toNat) : normKeyword k = [] := by
  have hfilter : k.filter isLetter = [] := List.filter_eq_nil_iff.2 fun b hb => by
    simp [letterShift_one_eq_iff.1 (h b hb)]
  rw [normKeyword, hfilter, List.map_nil]

theorem exec_vigKey_of_gt {s : State} (h : 32 < s.vklen.toNat) : exec .vigKey s = .next (failed 0x06 s) := by
  rw [exec_vigKey, if_pos h]

theorem exec_vigKey_of_no_letter {s : State} (h : s.vklen.toNat ≤ 32)
    (hk : ∀ b ∈ readBytes s.mem 0x0060 s.vklen.toNat, letterShift b 1 = b.toNat) :
    exec .vigKey s = .next (failed 0x03 s) := by
  have hnil : normKeyword (keywordBytes s) = [] := normKeyword_eq_nil hk
  rw [exec_vigKey, if_neg (Nat.not_lt.2 h), hnil, if_pos List.length_nil]

theorem exec_b64Dec_of_invalid_byte {s : State} (h : s.inlen.toNat ≤ 4096)
    (hc : ∃ b ∈ readBytes s.mem 0x1000 s.inlen.toNat, b.toNat ≠ 0x3D ∧ b.toNat ∉ alphabet) :
    exec .b64Dec s = .next (failed 0x04 s) := by
  obtain ⟨b, hb, hpad, hsym⟩ := hc
  have hbad : ¬ validSymbol b = true := fun hv =>
    (validSymbol_iff.1 hv).elim (fun hp => hpad (congrArg BitVec.toNat hp)) hsym
  exact exec_b64Dec_of_invalid h (List.all_eq_false.2 ⟨b, hb, hbad⟩)

end Sys2Proof.Machine

open Sys2Proof Sys2Proof.Machine

/-- Settles O4: the decoder has no command for the word when it executes, and acceptance does not decode. -/
theorem illegalWordFails : Obligations.IllegalWordFails :=
  ⟨fun _ _ => step_engineTurn_illegal, fun _ _ _ hb ha _ => step_accept hb ha⟩

/-- Settles O7, by induction on the number of steps: each step answers a next state. -/
theorem everyRunIsSafe : Obligations.EveryRunIsSafe := by
  intro s k
  induction k generalizing s with
  | zero => exact ⟨s, rfl⟩
  | succ k ih =>
    obtain ⟨t, ht⟩ := step_next s
    obtain ⟨u, hu⟩ := ih t
    exact ⟨u, (run_succ (M := Sys2Proof.core) ht k).trans hu⟩

/-- Settles O8: no write of a command but a failing completion's touches ERR or ERRCODE. -/
theorem commandCompletesOrFails : Obligations.CommandCompletesOrFails := by
  intro i s
  obtain ⟨t, ht⟩ := exec_next i s
  refine ⟨t, ht, ?_⟩
  rcases exec_cases ht with ⟨c, hc, rfl⟩ | ⟨u, hw, rfl⟩
  · exact ⟨rfl, .inr ⟨c, hc, rfl⟩⟩
  · exact ⟨rfl, .inl hw.err_eq⟩

/-- Settles O9, clause by clause: each command's lemma for the error, the earlier checks having passed. -/
theorem firstErrorIsReported : Obligations.FirstErrorIsReported := by
  intro s
  refine ⟨fun u => step_engineTurn_illegal, fun h => ?_, exec_b64Enc_of_gt,
    fun h => exec_md5Update_of_bad_length (.inr h), exec_aesLoad_of_gt, exec_vigKey_of_gt, exec_vigKey_of_no_letter,
    fun hv => ⟨vigRun_of_unkeyed hv _, vigRun_of_unkeyed hv _⟩,
    fun hv h => ⟨vigRun_of_gt hv h _, vigRun_of_gt hv h _⟩, exec_b64Dec_of_invalid_byte,
    fun hk => ⟨exec_aesKeyexp_of_illegal hk, exec_aesEnc_of_illegal hk, exec_aesDec_of_illegal hk⟩,
    exec_aesEnc_of_gt, exec_aesDec_of_ne, fun r hv => exec_aesAddrk_of_unkeyed hv r, fun r => exec_aesAddrk_of_gt,
    exec_rsaKeygen_of_lt_two, exec_rsaKeygen_of_common_factor,
    fun h => ⟨rsaPower_of_zero h, rsaPower_of_zero h⟩,
    fun h => ⟨exec_rsaModexp_of_zero h, exec_rsaModinv_of_zero h⟩, exec_rsaModinv_of_common_factor⟩
  -- INLEN over 4096 is the first error of five commands
  exact ⟨mapInput_of_gt h _, mapInput_of_gt h _, exec_md5Update_of_bad_length (.inl h), exec_md5Final_of_gt h,
    exec_b64Dec_of_gt h⟩

end

section
/-! PROOFS. The engine's step and the host while it is pending (70_reset_and_hazards.md R283, R284, R287). -/

namespace Sys2Proof.Machine

/-! ## Reads while BUSY = 1 (R287) -/

/-- A 32-bit read of a mapped offset reads the target there. -/
theorem step_read_mapped {s : State} {off : Nat} {rest : List Input} (hm : MappedOffset off)
    (ha : NextAccess s off .read rest) :
    ∃ tgt, targetAt off = some tgt ∧ step s = .next (readAccess tgt off { s with inputs := rest }) := by
  obtain ⟨o, rfl, hs⟩ := step_nextAccess ha
  obtain ⟨tgt, hacc, htgt⟩ := accessTarget_of_mapped .read rfl hm
  exact ⟨tgt, htgt, by rw [hs, busAccess, hacc]⟩

/-- A read of a register that stays readable answers its stored value, and the events are in no register. -/
theorem step_read_readable {s : State} {g : Reg} {rest : List Input} (hg : readableWhileBusy (.reg g) = true)
    (hm : MappedOffset g.offset) (ha : NextAccess s g.offset .read rest) :
    step s = .next { s with inputs := rest, resp := some (.data (readReg g s) false) } := by
  obtain ⟨tgt, htgt, hs⟩ := step_read_mapped hm ha
  cases (targetAt_offset g).symm.trans htgt
  rw [hs, readAccess, if_neg (by simp [hg]), readTarget, readReg_setModelFields g s rest s.resp]

/-- Only STATUS and CMD, the registers at 0x0004 and 0x0000 (20_memory.md R62), stay readable while BUSY = 1. -/
theorem readableWhileBusy_eq_false {off : Nat} {tgt : Target} (htgt : targetAt off = some tgt)
    (hcmd : off ≠ 0x0000) (hstatus : off ≠ 0x0004) : readableWhileBusy tgt = false := by
  refine decide_eq_false fun h => ?_
  rcases h with rfl | rfl
  · exact hstatus (targetAt_reg htgt)
  · exact hcmd (targetAt_reg htgt)

/-- While BUSY = 1 a read of any other mapped offset answers a free value. -/
theorem step_read_unspecified {s : State} {off : Nat} {rest : List Input} (hb : s.busy = true)
    (hm : MappedOffset off) (hcmd : off ≠ 0x0000) (hstatus : off ≠ 0x0004) (ha : NextAccess s off .read rest) :
    step s = .next { s with
      inputs := rest, resp := some (.data (Config.busyRead s.draws) false), draws := s.draws + 1 } := by
  obtain ⟨tgt, htgt, hs⟩ := step_read_mapped hm ha
  rw [hs, readAccess, if_pos ⟨hb, readableWhileBusy_eq_false htgt hcmd hstatus⟩]

/-- The STATUS word while BUSY = 1: ERR and ERRCODE are clear. -/
theorem toNat_statusWord_busy {s : State} (hb : s.busy = true) (hi : StatusInv s) :
    (statusWord s).toNat = 1 + 4 * s.ovr.toNat + 8 * s.kvalid.toNat + 16 * s.vkvalid.toNat := by
  have herr := hi.busy_clear hb
  rw [statusWordLayout s, hb, herr, hi.clear_code herr]
  simp

/-! ## From acceptance to execution (R284) -/

/-- `t` with the fields as in `s` that the host's accesses change while BUSY = 1: OVR and the model's own. -/
def withHostFields (s t : State) : State :=
  { t with ovr := s.ovr, inputs := s.inputs, resp := s.resp, draws := s.draws }

theorem withHostFields_trans {s t u : State} (hst : withHostFields s t = s) (htu : withHostFields t u = t) :
    withHostFields s u = s :=
  calc withHostFields s u = withHostFields s (withHostFields t u) := rfl
    _ = withHostFields s t := by rw [htu]
    _ = s := hst

/-- While BUSY = 1 an access takes itself off the events, and changes only OVR and the model's own fields. -/
theorem busAccess_busy {s : State} {rest : List Input} (hb : s.busy = true) (a : Access) :
    (busAccess a { s with inputs := rest }).inputs = rest ∧
      withHostFields s (busAccess a { s with inputs := rest }) = s := by
  rcases busAccess_cases a { s with inputs := rest } with ⟨r, h⟩ | ⟨r, -, h⟩ | ⟨-, h⟩ | ⟨_, _, hidle, -⟩
  · rw [h]; exact ⟨rfl, rfl⟩
  · rw [h]; exact ⟨rfl, rfl⟩
  · rw [h]; exact ⟨rfl, rfl⟩
  · exact absurd (hb.symm.trans hidle) (by decide)

/-- The engine's step answers a next state with BUSY clear, for a legal word and for an illegal one. -/
theorem engineStep_completes (s : State) : ∃ t, engineStep s = .next t ∧ t.busy = false := by
  unfold engineStep
  split
  · next i _ =>
    obtain ⟨t, ht, hbusy, -⟩ := commandCompletesOrFails i s
    exact ⟨t, ht, hbusy⟩
  · exact ⟨_, rfl, rfl⟩

/-- Within `n` steps from `s` the engine's step takes place, on the state of `s` but for the host's fields, and clears
BUSY. -/
def ExecutesWithin (n : Nat) (s : State) : Prop :=
  ∃ k t u, k ≤ n ∧ Sys2Proof.core.run k s = .next t ∧ t.busy = false ∧ engineStep u = .next t ∧ withHostFields s u = s

theorem executesWithin_of_engineTurn {s u : State} (hb : s.busy = true) (hu : EngineTurn s u) (n : Nat) :
    ExecutesWithin (n + 1) s := by
  obtain ⟨t, ht, hbusy⟩ := engineStep_completes u
  have hrun : Sys2Proof.core.run 1 s = .next t := run_succ (M := Sys2Proof.core) ((step_engineTurn hb hu).trans ht) 0
  exact ⟨1, t, u, by omega, hrun, hbusy, ht, by rw [hu.eq]; rfl⟩

theorem ExecutesWithin.of_step {n : Nat} {s t : State} (hs : step s = .next t) (hst : withHostFields s t = s)
    (h : ExecutesWithin n t) : ExecutesWithin (n + 1) s := by
  obtain ⟨k, v, u, hk, hrun, hbusy, hv, htu⟩ := h
  exact ⟨k + 1, v, u, by omega, (run_succ (M := Sys2Proof.core) hs k).trans hrun, hbusy, hv,
    withHostFields_trans hst htu⟩

/-- By induction on the events to come: accesses are passed over until the engine has its turn, at the latest when no
event is left. -/
theorem executesWithin_length_inputs {s : State} (hb : s.busy = true) (hr : ∀ i ∈ s.inputs, ∀ o, i ≠ .reset o) :
    ExecutesWithin (s.inputs.length + 1) s := by
  induction hi : s.inputs generalizing s with
  | nil => exact executesWithin_of_engineTurn hb (.inl ⟨hi, rfl⟩) 0
  | cons i rest ih =>
    rw [hi, List.forall_mem_cons] at hr
    obtain ⟨hreset, hrest⟩ := hr
    cases i with
    | engine => exact executesWithin_of_engineTurn hb (.inr ⟨rest, hi, rfl⟩) _
    | reset o => exact absurd rfl (hreset o)
    | access a =>
      obtain ⟨hin, hst⟩ := busAccess_busy (rest := rest) hb a
      have hbusy : (busAccess a { s with inputs := rest }).busy = true := (congrArg State.busy hst :).trans hb
      exact .of_step (step_access hi) hst (ih hbusy (hin.symm ▸ hrest) hin)

end Sys2Proof.Machine

open Sys2Proof Sys2Proof.Machine

/-- Settles O60, by induction on the events to come. -/
theorem acceptedCommandIsExecuted : Obligations.AcceptedCommandIsExecuted :=
  fun _ => executesWithin_length_inputs

/-- Settles O48: STATUS and CMD answer their stored values, every other mapped offset a free value. -/
theorem busyReadsAreUnspecified : Obligations.BusyReadsAreUnspecified := by
  intro s off rest hb hi hm ha
  refine ⟨?_, ?_, fun hcmd hstatus => ⟨_, _, step_read_unspecified hb hm hcmd hstatus ha⟩⟩
  · rintro rfl
    exact ⟨_, step_read_readable (g := .status) rfl hm ha, toNat_statusWord_busy hb hi⟩
  · rintro rfl
    exact step_read_readable (g := .cmd) rfl hm ha

/-- Settles O5: the engine's turn decodes PENDING, which the event that gave the turn leaves alone. -/
theorem stepRunsDecodedCommand : Obligations.StepRunsDecodedCommand :=
  fun _ _ _ => step_engineTurn_command

end
